-- ==== Sys2Proof/Word.lean ====
section
/-! DEFINITION. The words of the block: bytes and bus words. -/

namespace Sys2Proof

/-- A byte of the host bus (a lane of a bus word, 20_memory.md R44). -/
abbrev Byte := BitVec 8

/-- A 32-bit bus word, register value or command word (00_scope.md R6, 20_memory.md R39). -/
abbrev Word := BitVec 32

end Sys2Proof
end

