-- ==== Sys2Proof/Syntax.lean ====
section
/-! DEFINITION. The commands of the block: one constructor for each row of spec/opcode_table.json
(30_encoding.md R55). No command has an operand field: every operand is implicit (R54). -/

namespace Sys2Proof

/-- The seven commands (00_scope.md R1, 30_encoding.md R55). -/
inductive Instr where
  /-- NOP, 0x00000000 (40_command_lifecycle.md R67). -/
  | nop
  /-- MONTMUL, 0x00000001: Montgomery product (41_montgomery.md R69). -/
  | montmul
  /-- RSQ, 0x00000002: Montgomery conversion constant (41_montgomery.md R70). -/
  | rsq
  /-- MODEXP, 0x00000003: modular exponentiation (42_modexp.md R73). -/
  | modexp
  /-- MRROUND, 0x00000004: one Miller-Rabin round (43_primality.md R77). -/
  | mrround
  /-- MRTEST, 0x00000005: Miller-Rabin test of several rounds (43_primality.md R79). -/
  | mrtest
  /-- MODINV, 0x00000006: modular inverse (44_modinv.md R82). -/
  | modinv
  deriving DecidableEq, Repr

end Sys2Proof
end

