-- ==== Sys2Proof/Decode.lean ====
section
/-! DEFINITION. The command word: decoder, total on every word and on every list of bytes, and encoder
(30_encoding.md R53, R55, R56), with the byte lanes of a bus word (20_memory.md R44). -/

namespace Sys2Proof

/-- Why a decoder rejects (30_encoding.md R56). The block reports both of the first two as BADOP. -/
inductive DecodeRefusal where
  /-- Bits 31:8 are not 0 (30_encoding.md R53). -/
  | rsvdNonZero
  /-- OPCODE is 0x07 to 0xFF with RSVD = 0 (30_encoding.md R55). -/
  | reservedOpcode
  /-- Fewer than the four bytes of a command word. -/
  | truncated
  deriving DecidableEq, Repr

/-- OPCODE, bits 7:0 of a command word (30_encoding.md R53). -/
def opcodeField (w : Word) : BitVec 8 := w.extractLsb' 0 8

/-- RSVD, bits 31:8 of a command word (30_encoding.md R53). -/
def rsvdField (w : Word) : BitVec 24 := w.extractLsb' 8 24

/-- The opcode map (30_encoding.md R55). -/
def opcodeMap : List (BitVec 8 × Instr) :=
  [(0x00#8, .nop), (0x01#8, .montmul), (0x02#8, .rsq), (0x03#8, .modexp), (0x04#8, .mrround),
   (0x05#8, .mrtest), (0x06#8, .modinv)]

/-- The command that a word stands for, or why it is illegal. Check 1 of 40_command_lifecycle.md R62 is that this is
no refusal. -/
def decode (w : Word) : Except DecodeRefusal Instr :=
  if rsvdField w ≠ 0#24 then .error .rsvdNonZero
  else match opcodeMap.lookup (opcodeField w) with
    | some i => .ok i
    | none => .error .reservedOpcode

/-- The word whose byte lanes 0 to 3 carry `b0` to `b3`: lane b carries bits 8b+7:8b (20_memory.md R44). -/
def wordOfLanes (b0 b1 b2 b3 : Byte) : Word := b3 ++ b2 ++ b1 ++ b0

/-- Byte lane `k` of a word, bits 8k+7:8k (20_memory.md R44). -/
def laneOf (w : Word) (k : Nat) : Byte := w.extractLsb' (8 * k) 8

/-- The decoder on bytes, lowest lane first: it reads exactly one word for each command (30_encoding.md R53). -/
def decodeBytes : List Byte → Except DecodeRefusal (Instr × List Byte)
  | b0 :: b1 :: b2 :: b3 :: rest =>
    match decode (wordOfLanes b0 b1 b2 b3) with
    | .ok i => .ok (i, rest)
    | .error r => .error r
  | _ => .error .truncated

/-- The OPCODE of a command (30_encoding.md R55). -/
def opcodeOf : Instr → BitVec 8
  | .nop => 0x00#8
  | .montmul => 0x01#8
  | .rsq => 0x02#8
  | .modexp => 0x03#8
  | .mrround => 0x04#8
  | .mrtest => 0x05#8
  | .modinv => 0x06#8

/-- The command word of a command: RSVD = 0 and its OPCODE (30_encoding.md R53, R55). -/
def encode (i : Instr) : Word := 0#24 ++ opcodeOf i

/-- The bytes of a command word, lowest lane first (20_memory.md R44). -/
def encodeBytes (i : Instr) : List Byte :=
  [laneOf (encode i) 0, laneOf (encode i) 1, laneOf (encode i) 2, laneOf (encode i) 3]

/-- The word that the opcode table's numbering gives: bit k of `w` is bit k of the word, and every bit from `nbits`
up is 0. -/
def tableWord (nbits w : Nat) : Word := BitVec.ofNat 32 (w % 2 ^ nbits)

/-- The command the decoder reads from a table row's bits, laid out as bytes in lane order. -/
def decodeTableWord (nbits w : Nat) : Option Instr :=
  match decodeBytes [laneOf (tableWord nbits w) 0, laneOf (tableWord nbits w) 1,
      laneOf (tableWord nbits w) 2, laneOf (tableWord nbits w) 3] with
  | .ok (i, _) => some i
  | .error _ => none

end Sys2Proof
end

