-- ==== Sys2Proof/Config.lean ====
section
/-! DEFINITION. What is fixed for the hardware (00_scope.md R6), the open parameters of one machine
(R5, R7) and the free values. -/

namespace Sys2Proof

/-- The open parameters of one block. They never change while it runs (log 3, log 4). -/
structure Params where
  /-- MAXW = P_OPW / 32, the words of an operand register (00_scope.md R5). -/
  maxw : Nat
  /-- P_BASE, the byte address at which the host sees offset 0x0000 (00_scope.md R7). -/
  base : Nat
  deriving DecidableEq, Repr

/-- P_OPW, the width in bits of every operand register (00_scope.md R5). -/
def Params.opw (p : Params) : Nat := 32 * p.maxw

/-- The parameters of `State.reset`: P_OPW = 4096, the spec's default (00_scope.md R5), and P_BASE = 0
(DESIGN CHOICE, unsafe for a claim that rests on it: the spec leaves P_BASE open, log 4). -/
def Params.default : Params where
  maxw := 128
  base := 0

/-- BUS_W, the host data bus width in bits (00_scope.md R6). -/
def Config.busW : Nat := 32

/-- ADDR_W, the width of the byte offset inside the window (00_scope.md R6). -/
def Config.addrW : Nat := 16

/-- LEN_W, the width of the LEN register field (00_scope.md R6); the field's type is `BitVec 16`. -/
def Config.lenW : Nat := 16

/-- ROUNDS_W, the width of the ROUNDS register field (00_scope.md R6); the field's type is `BitVec 8`. -/
def Config.roundsW : Nat := 8

/-- NFIXED, the entries of the fixed base table (00_scope.md R6). -/
def Config.nfixed : Nat := 16

/-- The constant of the ID register, the characters RSA1 (10_state.md R24). -/
def Config.idValue : Word := 0x52534131#32

/-- CONFIG.VERSION, the spec revision of the block (10_state.md R25). -/
def Config.version : BitVec 8 := 0x01#8

/-- The fixed Miller-Rabin base table FIXED, the first sixteen primes (10_state.md R32). -/
def Config.fixedTable : List Nat := [2, 3, 5, 7, 11, 13, 17, 19, 23, 29, 31, 37, 41, 43, 47, 53]

/-- FREE VALUE: the `Unspecified` word that a read of the R window returns while BUSY = 1, one for each
draw (10_state.md R22, 20_memory.md R42; log 7). It has no body: nothing constrains it. -/
opaque Config.freeWord : Nat → Word

/-- FREE VALUE: what the engine leaves in R as scratch while a command runs, one for each draw
(10_state.md R22, 40_command_lifecycle.md R64; log 8). It has no body: nothing constrains it. -/
opaque Config.freeScratch : Nat → Nat

end Sys2Proof
end

