-- ==== Sys2Proof/Machine/Port.lean ====
section
/-! DEFINITION. The ports of the block: host bus accesses and their answers (20_memory.md §2), entropy requests
(60_exceptions.md R100), and the events of the total order in which the agents act (20_memory.md R47). -/

namespace Sys2Proof.Machine

/-- The five operand registers (10_state.md R19). -/
inductive OpReg where
  | A | B | E | N | R
  deriving DecidableEq, Repr

/-- The width of a host access. Only `w32` is legal; the others, and bursts, get a bus error
(20_memory.md R39). -/
inductive AccessWidth where
  | w8 | w16 | w32 | w64 | burst
  deriving DecidableEq, Repr

/-- Direction and data of a host access. The data of an illegal width is never used. -/
inductive AccessKind where
  | read
  | write (v : Word)
  deriving DecidableEq, Repr

/-- One host bus access at the byte address `addr` of the host's address space (00_scope.md R7,
20_memory.md R36, R39). -/
structure Access where
  addr : Nat
  width : AccessWidth
  kind : AccessKind
  deriving DecidableEq, Repr

/-- What the host port answers (20_memory.md R38, R40). The model keeps the last answer (log 6). -/
inductive Response where
  /-- No access has been answered since the hardware reset. -/
  | none
  /-- A read returned this word. -/
  | data (v : Word)
  /-- A write got the normal response. -/
  | written
  /-- The access got a bus error: it changed no state and a read returned no data (R40). -/
  | busError
  /-- The address is outside the block's window, so the access never reached the block (R36). -/
  | notSelected
  deriving DecidableEq, Repr

/-- The outstanding entropy request (10_state.md R33, 60_exceptions.md R100). A request is blocking, so there is at
most one. -/
inductive EntropyPort where
  /-- No request. -/
  | none
  /-- The engine waits for a base. -/
  | requested
  /-- The source has supplied this base and the engine has not used it yet. -/
  | answered (a : Nat)
  deriving DecidableEq, Repr

/-- One event of the single total order (20_memory.md R47): which agent moves, and with what input. -/
inductive Event where
  /-- The host issues one bus access (10_state.md R16). -/
  | host (a : Access)
  /-- The engine takes the step that makes progress: it completes the command, or it runs one round of an MRTEST that
  draws its bases (40_command_lifecycle.md R64). -/
  | engine
  /-- The engine takes an internal step that changes only hidden state and R (40_command_lifecycle.md R64). -/
  | engineInternal
  /-- The entropy source offers the value `v` (60_exceptions.md R100). -/
  | entropy (v : Nat)
  /-- The reset input is asserted and released: one atomic step (70_reset_and_hazards.md R108). -/
  | hardwareReset
  deriving DecidableEq, Repr

end Sys2Proof.Machine
end

