-- ==== Sys2Proof/Machine/State.lean ====
section
/-! DEFINITION. The state of the block (10_state.md), its reset values (R35, 70_reset_and_hazards.md R108), and the
reasons a step could stop. -/

namespace Sys2Proof.Machine

/-- STATUS.ERRCODE by the names of its codes (60_exceptions.md R94). Codes 10 to 15 are never produced, so they have
no name here. -/
inductive ErrCode where
  /-- 0: no error since the last accept or W1C. -/
  | none
  /-- 1: illegal command word. -/
  | badop
  /-- 2: CMD write while BUSY = 1. -/
  | busy
  /-- 3: LEN = 0 or LEN > MAXW. -/
  | len
  /-- 4: an operand the command reads is 2^(32*LEN) or more. -/
  | width
  /-- 5: N = 0. -/
  | modzero
  /-- 6: N even. -/
  | evenmod
  /-- 7: A >= N or B >= N. -/
  | range
  /-- 8: ROUNDS = 0, or BASESRC = 0 and ROUNDS > 16. -/
  | rounds
  /-- 9: host write to A, B, E, N, LEN or ROUNDS while BUSY = 1. -/
  | wbusy
  deriving DecidableEq, Repr

/-- `phase` and `cur` (10_state.md R33). `cur` is meaningful only while RUNNING, so it stands there. -/
inductive Phase where
  | idle
  | running (cur : Instr)
  deriving DecidableEq, Repr

/-- No fault: the block reports every error as a value in STATUS and never traps, stops or halts (60_exceptions.md
R95, R99), and a bus error changes no state and is only the answer of one access (20_memory.md R40). Nobody raises a
fault. -/
inductive Fault where
  deriving DecidableEq, Repr

/-- Why the model would have no meaning for a command. -/
inductive Refusal where
  /-- A command whose meaning is not written. Every command has its meaning, so nobody raises it; it would be safe. -/
  | notModelled (mnemonic : String)
  deriving DecidableEq, Repr

/-- The block, its parameters, and the model's own view of its ports (INVENTORY.md, State). An operand register holds one
unsigned integer, `0 <= OP[X] < 2^P_OPW` (00_scope.md R9, 10_state.md R19). P_OPW is a parameter of the block, so the bound is
no part of the type: `State.OperandsFit` states it, and every step keeps it (log 3). -/
structure State where
  /-- P_OPW and P_BASE, constants of one machine (00_scope.md R5, R7; log 3, log 4). -/
  params : Params
  /-- Nat register A (10_state.md R19). -/
  a : Nat
  /-- Nat register B (10_state.md R19). -/
  b : Nat
  /-- Nat register E (10_state.md R19). -/
  e : Nat
  /-- Nat register N (10_state.md R19). -/
  n : Nat
  /-- Result register R (10_state.md R19, R22). -/
  r : Nat
  /-- CTRL.IRQEN (10_state.md R26). -/
  irqen : Bool
  /-- CTRL.BASESRC: false = fixed table, true = entropy port (10_state.md R26). -/
  basesrc : Bool
  /-- LASTCMD (10_state.md R27). -/
  lastCmd : Word
  /-- STATUS.DONE (10_state.md R28). -/
  done : Bool
  /-- STATUS.RESULT (10_state.md R28). -/
  result : Bool
  /-- STATUS.ERR (10_state.md R28). -/
  err : Bool
  /-- STATUS.ERRCODE (10_state.md R28, 60_exceptions.md R94). -/
  errCode : ErrCode
  /-- LEN (10_state.md R29). -/
  len : BitVec 16
  /-- ROUNDS (10_state.md R30). -/
  rounds : BitVec 8
  /-- `phase` and `cur`; STATUS.BUSY is the view `State.busy` of it (10_state.md R33). -/
  phase : Phase
  /-- The round counter of MRTEST: how many rounds have passed (10_state.md R33; log 10). -/
  round : Nat
  /-- The outstanding entropy request (10_state.md R33, 60_exceptions.md R100). -/
  entropy : EntropyPort
  /-- The model's own: the events still to come, oldest first (20_memory.md R47; log 2). -/
  schedule : List Event
  /-- The model's own: the host port's last answer (log 6). -/
  response : Response
  /-- The model's own: how many free values have been drawn (log 7). -/
  freeCount : Nat
  deriving DecidableEq, Repr

/-- The reset values (10_state.md R35, 70_reset_and_hazards.md R108) of a block with the parameters `p`. The model's own
three fields are empty (DESIGN CHOICE, log 2, log 6, log 7), and so is the round counter, engine scratch (log 10). -/
def State.resetOf (p : Params) : State where
  params := p
  a := 0
  b := 0
  e := 0
  n := 0
  r := 0
  irqen := false
  basesrc := true
  lastCmd := 0x00000000#32
  done := false
  result := false
  err := false
  errCode := .none
  len := BitVec.ofNat 16 p.maxw
  rounds := 10#8
  phase := .idle
  round := 0
  entropy := .none
  schedule := []
  response := .none
  freeCount := 0

/-- The machine right after reset: P_OPW = 4096 (00_scope.md R5), every register at the value of 10_state.md R35. -/
def State.reset : State := State.resetOf Params.default

end Sys2Proof.Machine
end

