-- ==== Sys2Proof/Machine/Flags.lean ====
section
/-! DEFINITION. STATUS, CTRL and the constant registers as words: the flags and who sets and clears them (10_state.md R23
to R31, R34). -/

namespace Sys2Proof.Machine

/-- STATUS.BUSY: 1 exactly when phase is RUNNING (10_state.md R28, R33). -/
def State.busy (s : State) : Bool :=
  match s.phase with
  | .idle => false
  | .running _ => true

/-- The interrupt output `irq = IRQEN AND DONE` (10_state.md R34, 60_exceptions.md R97). -/
def State.irq (s : State) : Bool := s.irqen && s.done

/-- The number of an error code (60_exceptions.md R94). -/
def errCodeBits : ErrCode → BitVec 4
  | .none => 0#4
  | .badop => 1#4
  | .busy => 2#4
  | .len => 3#4
  | .width => 4#4
  | .modzero => 5#4
  | .evenmod => 6#4
  | .range => 7#4
  | .rounds => 8#4
  | .wbusy => 9#4

/-- STATUS as the host reads it: reserved bits 31:8, ERRCODE 7:4, ERR 3, RESULT 2, DONE 1, BUSY 0 (10_state.md R28). -/
def State.statusWord (s : State) : Word :=
  0#24 ++ errCodeBits s.errCode ++ BitVec.ofBool s.err ++ BitVec.ofBool s.result ++ BitVec.ofBool s.done
    ++ BitVec.ofBool s.busy

/-- CTRL as the host reads it: SRST and the reserved bits read 0, BASESRC 1, IRQEN 0 (10_state.md R26). -/
def State.ctrlWord (s : State) : Word := 0#30 ++ BitVec.ofBool s.basesrc ++ BitVec.ofBool s.irqen

/-- CONFIG: VERSION 31:24, NFIXED 23:16, MAXW 15:0 (10_state.md R25). -/
def configWord (p : Params) : Word :=
  Config.version ++ BitVec.ofNat 8 Config.nfixed ++ BitVec.ofNat 16 p.maxw

/-- LEN as the host reads it, reserved bits 31:16 zero (10_state.md R29). -/
def State.lenWord (s : State) : Word := 0#16 ++ s.len

/-- ROUNDS as the host reads it, reserved bits 31:8 zero (10_state.md R30). -/
def State.roundsWord (s : State) : Word := 0#24 ++ s.rounds

/-- `SetErr(code)`: ERR <- 1 and ERRCODE <- code, and nothing else (00_scope.md R11). -/
def State.setErr (s : State) (c : ErrCode) : State := { s with err := true, errCode := c }

/-- A host write to STATUS: bit 1 clears DONE, bit 3 clears ERR and ERRCODE, every other bit is ignored (10_state.md
R28). It is the counterpart of a return from an exception (60_exceptions.md R99). -/
def State.writeStatus (s : State) (v : Word) : State :=
  { s with
    done := s.done && !v.getLsbD 1
    err := s.err && !v.getLsbD 3
    errCode := if v.getLsbD 3 then .none else s.errCode }

/-- What an accept clears: DONE, RESULT, ERR and ERRCODE (40_command_lifecycle.md R61). -/
def State.clearFlags (s : State) : State :=
  { s with done := false, result := false, err := false, errCode := .none }

end Sys2Proof.Machine
end

