-- ==== Sys2Proof/Machine/Arith.lean ====
section
/-! DEFINITION. The arithmetic of the four units on unbounded integers (00_scope.md R9, R10): Montgomery product and
constant (41_montgomery.md), modular power (42_modexp.md), Miller-Rabin rounds (43_primality.md) and modular inverse
(44_modinv.md). Every function runs on numerals by structural recursion; Laws/Arith.lean proves each equal to the
spec's own formula. -/

namespace Sys2Proof.Machine

/-- `bitLen(v)`: the number of bits of `v` without leading zeros, 0 for 0 (00_scope.md R9). -/
def bitLen (v : Nat) : Nat := if v = 0 then 0 else Nat.log2 v + 1

/-- The Montgomery radix RM = 2^(32*LEN) (41_montgomery.md R68). -/
def radix (len : Nat) : Nat := 2 ^ (32 * len)

/-- `k` squarings of `y` modulo `n`, each followed by a product with `x` where the exponent's bit is 1, from bit `k - 1`
down (the scan of 42_modexp.md R74). -/
def powBits (x e n : Nat) : Nat → Nat → Nat
  | 0, y => y
  | k + 1, y => powBits x e n k (if e.testBit k then y * y % n * x % n else y * y % n)

/-- `((a mod n)^e) mod n` (42_modexp.md R73), computed by squaring so that it runs on long exponents
(`powMod_eq`, log 18). -/
def powMod (a e n : Nat) : Nat := powBits (a % n) e n (bitLen e) (1 % n)

/-- The Euclidean loop of 44_modinv.md R84, its coefficients kept modulo `n`: `(r0, r1)` are two remainders and `t0`, `t1`
what they are multiples of. It ends when `r1 = 0`. -/
def euclid (n : Nat) : Nat → Nat → Nat → Nat → Nat → Nat
  | 0, _, _, t0, _ => t0
  | fuel + 1, r0, r1, t0, t1 =>
    if r1 = 0 then t0
    else euclid n fuel r1 (r0 % r1) t1 ((t0 + (n - r0 / r1 * t1 % n)) % n)

/-- `inv(a, n)` (00_scope.md R10): the unique `x < n` with `(a * x) mod n = 1 mod n`, where `gcd(a mod n, n) = 1`. -/
def inverseMod (a n : Nat) : Nat := euclid n (a % n + 1) n (a % n) 0 1 % n

/-- What MODINV answers for `a` and `n >= 1`: the inverse, or none when `gcd(a mod n, n) > 1` (44_modinv.md R82). -/
def modInv (a n : Nat) : Option Nat :=
  if Nat.gcd (a % n) n = 1 then some (inverseMod a n) else none

/-- The Montgomery product `(a * b * RM^-1) mod n` (41_montgomery.md R68, R69). -/
def montProduct (a b n len : Nat) : Nat := a * b * inverseMod (radix len) n % n

/-- The Montgomery conversion constant `RM^2 mod n`, that is `2^(64*LEN) mod n` (41_montgomery.md R70). -/
def montConstant (n len : Nat) : Nat := 2 ^ (64 * len) % n

/-- Divide `d` by 2 while it is even, counting in `s` (the while loop of 43_primality.md R76). `fuel` bounds the halvings. -/
def splitTwos : Nat → Nat → Nat → Nat × Nat
  | 0, d, s => (d, s)
  | fuel + 1, d, s => if d % 2 = 0 then splitTwos fuel (d / 2) (s + 1) else (d, s)

/-- At most `k` squarings of `x` modulo `n`: does one of them give `n - 1` (the repeat loop of 43_primality.md R76)? -/
def squaresReachMinusOne (n : Nat) : Nat → Nat → Bool
  | 0, _ => false
  | k + 1, x => if x * x % n = n - 1 then true else squaresReachMinusOne n k (x * x % n)

/-- One Miller-Rabin round MR(n, a) of candidate `n` with base `a` (43_primality.md R76). -/
def millerRabin (n a : Nat) : Bool :=
  if n < 2 then false
  else if n = 2 ∨ n = 3 then true
  else if n % 2 = 0 then false
  else if a % n = 0 ∨ a % n = 1 ∨ a % n = n - 1 then true
  else
    let ds := splitTwos (bitLen n) (n - 1) 0
    let x := powMod a ds.1 n
    if x = 1 ∨ x = n - 1 then true else squaresReachMinusOne n (ds.2 - 1) x

/-- The verdicts MRTEST gives without running a round (43_primality.md R79): `n < 2`, `n` is 2 or 3, `n` even. -/
def trivialVerdict (n : Nat) : Option Bool :=
  if n < 2 then some false
  else if n = 2 ∨ n = 3 then some true
  else if n % 2 = 0 then some false
  else none

/-- Rounds with the given bases in order, stopping at the first that fails (the loop of 43_primality.md R79). -/
def roundsPass (n : Nat) : List Nat → Bool
  | [] => true
  | a :: rest => if millerRabin n a then roundsPass n rest else false

/-- The verdict of MRTEST with BASESRC = 0: round `i` uses FIXED[i] (43_primality.md R78, R79). -/
def fixedVerdict (n rounds : Nat) : Bool :=
  match trivialVerdict n with
  | some f => f
  | none => roundsPass n (Config.fixedTable.take rounds)

/-- `k` rounds of MRTEST with BASESRC = 1 on the values the entropy source offers, in order: an offer outside `[2, n-2]`
answers no request, a failed round ends the test, and the unused offers are left (43_primality.md R78, R79,
60_exceptions.md R100). None when the offers run out: the engine then still waits. -/
def drawnRounds (n : Nat) : Nat → List Nat → Option (Bool × List Nat)
  | 0, offers => some (true, offers)
  | _ + 1, [] => none
  | k + 1, a :: offers =>
    if 2 ≤ a ∧ a + 2 ≤ n then
      if millerRabin n a then drawnRounds n k offers else some (false, offers)
    else drawnRounds n (k + 1) offers

/-- The verdict of MRTEST with BASESRC = 1 and what it leaves of the offers (43_primality.md R79). -/
def drawnVerdict (n rounds : Nat) (offers : List Nat) : Option (Bool × List Nat) :=
  match trivialVerdict n with
  | some f => some (f, offers)
  | none => drawnRounds n rounds offers

/-- The value in R of a verdict (43_primality.md R77, R79). -/
def flagValue (f : Bool) : Nat := if f then 1 else 0

/-- Informative (41_montgomery.md R72): `(-N^-1) mod 2^32`, for odd `n`. -/
def ciosConstant (n : Nat) : Nat := (2 ^ 32 - inverseMod n (2 ^ 32)) % 2 ^ 32

/-- Informative (41_montgomery.md R72): the CIOS loop over words `i` to `i + k - 1` of `a`. -/
def ciosLoop (a b n n0 : Nat) : Nat → Nat → Nat → Nat
  | 0, _, t => t
  | k + 1, i, t =>
    ciosLoop a b n n0 k (i + 1)
      ((t + a / 2 ^ (32 * i) % 2 ^ 32 * b
        + (t + a / 2 ^ (32 * i) % 2 ^ 32 * b) % 2 ^ 32 * n0 % 2 ^ 32 * n) / 2 ^ 32)

/-- Informative (41_montgomery.md R72): word-serial Montgomery reduction with the final subtraction. No meaning uses it
(log 18). -/
def cios (a b n len : Nat) : Nat :=
  if n ≤ ciosLoop a b n (ciosConstant n) len 0 0 then ciosLoop a b n (ciosConstant n) len 0 0 - n
  else ciosLoop a b n (ciosConstant n) len 0 0

/-- Informative (42_modexp.md R74): the scan of MODEXP in Montgomery form, bits `k - 1` down to 0 of `e`. -/
def montPowBits (x e n len : Nat) : Nat → Nat → Nat
  | 0, y => y
  | k + 1, y =>
    montPowBits x e n len k
      (if e.testBit k then montProduct (montProduct y y n len) x n len else montProduct y y n len)

/-- Informative (42_modexp.md R74): modular power through Montgomery form. No meaning uses it (log 18). -/
def montPow (a e n len : Nat) : Nat :=
  montProduct
    (montPowBits (montProduct (a % n) (montConstant n len) n len) e n len (bitLen e) (radix len % n))
    1 n len

end Sys2Proof.Machine
end

