-- ==== Sys2Proof/Machine/Operands.lean ====
section
/-! DEFINITION. The operand register file (10_state.md R19, R20): every read and write of A, B, E, N and R, as
integers and as words, and the big-endian conversions of the host (20_memory.md R45). -/

namespace Sys2Proof.Machine

/-- `OP[X]`, the integer value of an operand register (10_state.md R19, 00_scope.md R11). -/
def State.op (s : State) : OpReg → Nat
  | .A => s.a
  | .B => s.b
  | .E => s.e
  | .N => s.n
  | .R => s.r

/-- Replace one operand register. -/
def State.setOperand (s : State) (x : OpReg) (v : Nat) : State :=
  match x with
  | .A => { s with a := v }
  | .B => { s with b := v }
  | .E => { s with e := v }
  | .N => { s with n := v }
  | .R => { s with r := v }

/-- Word `j` of an operand: bits 32j+31:32j (10_state.md R20). -/
def operandWord (x : Nat) (j : Nat) : Word := BitVec.ofNat 32 (x >>> (32 * j))

/-- An operand with word `j` replaced: the words above it, the new word, the words below it (10_state.md R20). -/
def withOperandWord (x : Nat) (j : Nat) (v : Word) : Nat :=
  ((x >>> (32 * (j + 1))) <<< 32 + v.toNat) <<< (32 * j) + x % 2 ^ (32 * j)

/-- Does the register hold a value below `2^(32*words)`, that is, no bit at or above that place (check WIDTH of
40_command_lifecycle.md R62; `fits_iff`)? -/
def State.fits (s : State) (x : OpReg) (words : Nat) : Bool := decide (s.op x >>> (32 * words) = 0)

/-- The integer of a byte buffer read as big-endian: byte 0 is most significant (20_memory.md R45). -/
def natOfBytes (l : List Byte) : Nat := l.foldl (fun m x => m * 256 + x.toNat) 0

/-- The `k`-byte big-endian serialization of `m`, left-padded with zero bytes (20_memory.md R45). -/
def bytesOfNat : Nat → Nat → List Byte
  | 0, _ => []
  | k + 1, m => BitVec.ofNat 8 (m / 256 ^ k) :: bytesOfNat k m

end Sys2Proof.Machine
end

