-- ==== Sys2Proof/Machine/Ops.lean ====
section
/-! DEFINITION. The operations every command shares (40_command_lifecycle.md): accept, acceptance checks, error
completion, start, normal completion; the engine's scratch and entropy requests; reset. -/

namespace Sys2Proof.Machine

/-- The outcome of a step of this machine. -/
abbrev Result := Host.Outcome State Fault Refusal

/-! ### Acceptance checks (40_command_lifecycle.md R62) -/

/-- Check 2, LEN: `LEN == 0` or `LEN > MAXW`. -/
def State.lenIllegal (s : State) : Bool := decide (s.len.toNat = 0 ∨ s.params.maxw < s.len.toNat)

/-- Check 3, WIDTH: some register of those the command reads has a value of `2^(32*LEN)` or more. -/
def State.tooWide (s : State) (regs : List OpReg) : Bool := regs.any fun x => !s.fits x s.len.toNat

/-- Check 4, MODZERO: `OP[N] == 0`. -/
def State.modulusZero (s : State) : Bool := decide (s.op .N = 0)

/-- Check 5, EVENMOD: `OP[N]` even. -/
def State.modulusEven (s : State) : Bool := decide (s.op .N % 2 = 0)

/-- Check 6, RANGE: `OP[A] >= OP[N]` or `OP[B] >= OP[N]`. -/
def State.outOfRange (s : State) : Bool := decide (s.op .N ≤ s.op .A ∨ s.op .N ≤ s.op .B)

/-- Check 7, ROUNDS: `ROUNDS == 0`, or `BASESRC == 0` and `ROUNDS > NFIXED`. -/
def State.roundsIllegal (s : State) : Bool :=
  decide (s.rounds.toNat = 0 ∨ (s.basesrc = false ∧ Config.nfixed < s.rounds.toNat))

/-- The code of the first check that fails, `none` (0) when every check passes (40_command_lifecycle.md R62). -/
def firstFailure : List (Bool × ErrCode) → ErrCode
  | [] => .none
  | (failed, c) :: rest => if failed then c else firstFailure rest

/-! ### Accept, error completion and completion -/

/-- The first part of every accept: LASTCMD <- w, and DONE, RESULT, ERR and ERRCODE <- 0 (40_command_lifecycle.md
R61). -/
def State.beginAccept (s : State) (w : Word) : State := { s.clearFlags with lastCmd := w }

/-- Taking the block's exception, `raise Error(code)`: `SetErr(code)`, DONE <- 1, and R and the operands keep their values
(40_command_lifecycle.md R63). RESULT and BUSY are 0 already. -/
def State.raiseError (s : State) (c : ErrCode) : State := { s.setErr c with done := true }

/-- An accepted command starts: phase <- RUNNING, cur <- its opcode, BUSY <- 1 (40_command_lifecycle.md R61). -/
def State.start (s : State) (i : Instr) : State := { s with phase := .running i }

/-- `Complete(f)` for NOP: RESULT <- f, BUSY <- 0, DONE <- 1, phase <- IDLE; R, ERR and ERRCODE keep their values
(40_command_lifecycle.md R65). The engine's scratch is dropped. -/
def State.finish (s : State) (f : Bool) : State :=
  { s with result := f, done := true, phase := .idle, round := 0, entropy := .none }

/-- `Complete(f)` with `R = v` for every other command: every word of R is written (40_command_lifecycle.md R65). -/
def State.complete (s : State) (v : Nat) (f : Bool) : State :=
  { s with r := v }.finish f

/-- `Complete(f)` with `R = f`, as the primality commands end (43_primality.md R77, R79). -/
def State.completeVerdict (s : State) (f : Bool) : State := s.complete (flagValue f) f

/-- The accept of a legal command word other than NOP, in phase IDLE: `code` is what its checks gave
(40_command_lifecycle.md R61). -/
def State.accept (s : State) (i : Instr) (code : ErrCode) : State :=
  if code = .none then (s.beginAccept (encode i)).start i
  else (s.beginAccept (encode i)).raiseError code

/-- The accept of an illegal command word: check 1, BADOP (40_command_lifecycle.md R61, R62; 30_encoding.md R56). -/
def State.acceptIllegal (s : State) (w : Word) : State := (s.beginAccept w).raiseError .badop

/-- One action of command `i`: its accept while phase is IDLE, an engine step while it is RUNNING
(40_command_lifecycle.md R61, R64; log 12). -/
def runCommand (i : Instr) (code : ErrCode) (engine : State) (s : State) : Result :=
  match s.phase with
  | .idle => .next (s.accept i code)
  | .running _ => .next engine

/-! ### Engine scratch and entropy requests -/

/-- The engine uses R as scratch: R holds a free value of P_OPW bits (10_state.md R22, 40_command_lifecycle.md R64;
log 8). -/
def State.scribble (s : State) : State :=
  { s with
    r := Config.freeScratch s.freeCount % 2 ^ s.params.opw
    freeCount := s.freeCount + 1 }

/-- The engine requests one base from the entropy port (60_exceptions.md R100). -/
def State.requestBase (s : State) : State := { s with entropy := .requested }

/-- Is the engine waiting on the entropy port? Then it takes no step (60_exceptions.md R100). -/
def State.waiting (s : State) : Bool := decide (s.entropy = .requested)

/-- An internal engine step: it changes only hidden state and R, and only while a command runs that does not wait on the
entropy port (40_command_lifecycle.md R64, 60_exceptions.md R100). -/
def State.internalStep (s : State) : State := if s.busy && !s.waiting then s.scribble else s

/-- The entropy source offers `v`: it answers an outstanding request when `2 <= v <= n - 2`, and otherwise nothing happens
(60_exceptions.md R100; log 11). -/
def State.offerEntropy (s : State) (v : Nat) : State :=
  if s.waiting && decide (2 ≤ v ∧ v + 2 ≤ s.op .N) then { s with entropy := .answered v } else s

/-! ### Reset -/

/-- Every piece of the block's state to its reset value (10_state.md R35, 70_reset_and_hazards.md R108); the running
command is abandoned and its entropy request withdrawn. The model's own fields stay (log 14). -/
def State.resetBlock (s : State) : State :=
  { State.resetOf s.params with schedule := s.schedule, response := s.response, freeCount := s.freeCount }

end Sys2Proof.Machine
end

