-- ==== Sys2Proof/Machine/Modexp.lean ====
section
/-! DEFINITION. The modular-exponentiation engine: MODEXP (42_modexp.md). -/

namespace Sys2Proof.Machine

/-- The checks of MODEXP: LEN, WIDTH (A, E, N), MODZERO, EVENMOD (40_command_lifecycle.md R62). -/
def modexpChecks (s : State) : ErrCode :=
  firstFailure [(s.lenIllegal, .len), (s.tooWide [.A, .E, .N], .width), (s.modulusZero, .modzero),
    (s.modulusEven, .evenmod)]

/-- MODEXP: R = ((A mod N)^E) mod N, RESULT = 1 (42_modexp.md R73). -/
def execModexp (s : State) : Result :=
  runCommand .modexp (modexpChecks s) (s.complete (powMod (s.op .A) (s.op .E) (s.op .N)) true) s

end Sys2Proof.Machine
end

