-- ==== Sys2Proof/Machine/Modinv.lean ====
section
/-! DEFINITION. The multiplicative-inverse unit: MODINV (44_modinv.md). -/

namespace Sys2Proof.Machine

/-- The checks of MODINV: LEN, WIDTH (A, N), MODZERO (40_command_lifecycle.md R62). -/
def modinvChecks (s : State) : ErrCode :=
  firstFailure [(s.lenIllegal, .len), (s.tooWide [.A, .N], .width), (s.modulusZero, .modzero)]

/-- The completion of MODINV: R = the inverse and RESULT = 1, or R = 0 and RESULT = 0 when there is none
(44_modinv.md R82). -/
def State.completeInverse (s : State) : Option Nat → State
  | some v => s.complete v true
  | none => s.complete 0 false

/-- MODINV: R = inv(A mod N, N) and RESULT = 1 when gcd(A mod N, N) = 1, else R = 0 and RESULT = 0 (44_modinv.md R82). -/
def execModinv (s : State) : Result :=
  runCommand .modinv (modinvChecks s) (s.completeInverse (modInv (s.op .A) (s.op .N))) s

end Sys2Proof.Machine
end

