-- ==== Sys2Proof/Machine/Montgomery.lean ====
section
/-! DEFINITION. The Montgomery multiplier: MONTMUL and RSQ (41_montgomery.md). -/

namespace Sys2Proof.Machine

/-- The checks of MONTMUL: LEN, WIDTH (A, B, N), MODZERO, EVENMOD, RANGE (40_command_lifecycle.md R62). -/
def montmulChecks (s : State) : ErrCode :=
  firstFailure [(s.lenIllegal, .len), (s.tooWide [.A, .B, .N], .width), (s.modulusZero, .modzero),
    (s.modulusEven, .evenmod), (s.outOfRange, .range)]

/-- MONTMUL: R = (A * B * RM^-1) mod N, RESULT = 1 (41_montgomery.md R69). -/
def execMontmul (s : State) : Result :=
  runCommand .montmul (montmulChecks s)
    (s.complete (montProduct (s.op .A) (s.op .B) (s.op .N) s.len.toNat) true) s

/-- The checks of RSQ: LEN, WIDTH (N), MODZERO, EVENMOD (40_command_lifecycle.md R62). -/
def rsqChecks (s : State) : ErrCode :=
  firstFailure [(s.lenIllegal, .len), (s.tooWide [.N], .width), (s.modulusZero, .modzero), (s.modulusEven, .evenmod)]

/-- RSQ: R = 2^(64*LEN) mod N, RESULT = 1 (41_montgomery.md R70). -/
def execRsq (s : State) : Result :=
  runCommand .rsq (rsqChecks s) (s.complete (montConstant (s.op .N) s.len.toNat) true) s

end Sys2Proof.Machine
end

