-- ==== Sys2Proof/Machine/Nop.lean ====
section
/-! DEFINITION. NOP (40_command_lifecycle.md R67). -/

namespace Sys2Proof.Machine

/-- NOP: it has no checks and completes inside its accept, with RESULT = 0 and R unchanged (40_command_lifecycle.md
R61, R67). The engine never runs it, since no accept starts it; a RUNNING NOP, which no run reaches, would complete by R65
(log 16). -/
def execNop (s : State) : Result :=
  match s.phase with
  | .idle => .next ((s.beginAccept (encode .nop)).finish false)
  | .running _ => .next (s.finish false)

end Sys2Proof.Machine
end

