-- ==== Sys2Proof/Machine/Primality.lean ====
section
/-! DEFINITION. The Miller-Rabin primality tester: MRROUND and MRTEST (43_primality.md). -/

namespace Sys2Proof.Machine

/-- The checks of MRROUND: LEN, WIDTH (A, N) (40_command_lifecycle.md R62). -/
def mrroundChecks (s : State) : ErrCode :=
  firstFailure [(s.lenIllegal, .len), (s.tooWide [.A, .N], .width)]

/-- MRROUND: R = RESULT = MR(N, A) (43_primality.md R77). -/
def execMrround (s : State) : Result :=
  runCommand .mrround (mrroundChecks s) (s.completeVerdict (millerRabin (s.op .N) (s.op .A))) s

/-- The checks of MRTEST: LEN, WIDTH (N), ROUNDS (40_command_lifecycle.md R62). -/
def mrtestChecks (s : State) : ErrCode :=
  firstFailure [(s.lenIllegal, .len), (s.tooWide [.N], .width), (s.roundsIllegal, .rounds)]

/-- The engine asks for the base of the next round; R is its scratch (43_primality.md R78, 60_exceptions.md R100;
log 8, log 10). -/
def State.askForBase (s : State) (round : Nat) : State := { s.scribble.requestBase with round := round }

/-- One round of MRTEST with a drawn base `a`: a failed round completes with 0, the last passed round with 1, and any other
passed round asks for the next base (43_primality.md R79). -/
def State.drawnRound (s : State) (a : Nat) : State :=
  if millerRabin (s.op .N) a then
    if s.round + 1 < s.rounds.toNat then s.askForBase (s.round + 1) else s.completeVerdict true
  else s.completeVerdict false

/-- The engine's step of MRTEST (43_primality.md R79). Trivial candidates complete without a round; with BASESRC = 0 the
whole test over the fixed table is the completing step (40_command_lifecycle.md R64); with BASESRC = 1 the engine requests a
base, takes no step until it is answered, and then runs the round (log 10). -/
def mrtestEngine (s : State) : State :=
  match trivialVerdict (s.op .N) with
  | some f => s.completeVerdict f
  | none =>
    if s.basesrc then
      match s.entropy with
      | .none => s.askForBase s.round
      | .requested => s
      | .answered a => s.drawnRound a
    else s.completeVerdict (fixedVerdict (s.op .N) s.rounds.toNat)

/-- MRTEST: R = RESULT = the verdict of ROUNDS rounds on N (43_primality.md R79). -/
def execMrtest (s : State) : Result := runCommand .mrtest (mrtestChecks s) (mrtestEngine s) s

end Sys2Proof.Machine
end

