-- ==== Sys2Proof/Machine/Dispatch.lean ====
section
/-! DEFINITION. The meaning of each command: one arm per constructor of Instr. -/

namespace Sys2Proof.Machine

def exec (i : Instr) (s : State) : Host.Outcome State Fault Refusal :=
  match i with
  | .nop => Sys2Proof.Machine.execNop s
  | .montmul => Sys2Proof.Machine.execMontmul s
  | .rsq => Sys2Proof.Machine.execRsq s
  | .modexp => Sys2Proof.Machine.execModexp s
  | .mrround => Sys2Proof.Machine.execMrround s
  | .mrtest => Sys2Proof.Machine.execMrtest s
  | .modinv => Sys2Proof.Machine.execModinv s

end Sys2Proof.Machine
end

