-- ==== Sys2Proof/WellFormed.lean ====
section
/-! DEFINITION. Well-formedness: of a command (nothing to check: it has no field), of the parameters (00_scope.md R5),
and of a host access (20_memory.md R39). -/

namespace Sys2Proof

/-- A command has no operand and no immediate (30_encoding.md R54), so every term of `Instr` is well formed. -/
def Instr.wellFormed : Instr → Bool
  | .nop => true
  | .montmul => true
  | .rsq => true
  | .modexp => true
  | .mrround => true
  | .mrtest => true
  | .modinv => true

/-- P_OPW is a multiple of 32 with 64 <= P_OPW <= 32768 (00_scope.md R5). -/
def Params.wellFormed (p : Params) : Bool :=
  decide (64 ≤ p.opw) && decide (p.opw ≤ 32768)

namespace Machine

/-- A legal host access is one 32-bit access to a multiple of 4 (20_memory.md R39). `off` is the access's offset in
the window. -/
def Access.wellFormed (a : Access) (off : Nat) : Bool :=
  decide (a.width = .w32) && decide (off % 4 = 0)

end Machine

end Sys2Proof
end

