-- ==== Sys2Proof/Machine/Bus.lean ====
section
/-! DEFINITION. Host bus accesses (20_memory.md): the address map, reads, writes, bus errors, the accept at a CMD write,
and soft reset. -/

namespace Sys2Proof.Machine

/-- What stands at an offset of the window (20_memory.md R37). -/
inductive Target where
  | id
  | config
  | ctrl
  | cmd
  | status
  | len
  | rounds
  | operandWord (x : OpReg) (j : Nat)
  | unmapped
  deriving DecidableEq, Repr

/-- The byte offset of register X's window (20_memory.md R38). -/
def windowBase : OpReg → Nat
  | .A => 0x1000
  | .B => 0x2000
  | .E => 0x3000
  | .N => 0x4000
  | .R => 0x5000

/-- The offset of word `j` of a window; words at or above MAXW are unmapped (20_memory.md R37). -/
def operandTarget (maxw : Nat) (x : OpReg) (off : Nat) : Target :=
  if (off - windowBase x) / 4 < maxw then .operandWord x ((off - windowBase x) / 4) else .unmapped

/-- The control registers, at offsets below 0x1000 (20_memory.md R37). -/
def controlTarget (off : Nat) : Target :=
  if off = 0x0000 then .id
  else if off = 0x0004 then .config
  else if off = 0x0008 then .ctrl
  else if off = 0x000C then .cmd
  else if off = 0x0010 then .status
  else if off = 0x0014 then .len
  else if off = 0x0018 then .rounds
  else .unmapped

/-- The address map (20_memory.md R37), for a multiple of 4: the control registers, the five operand windows of 0x1000 bytes
each, and nothing from 0x6000 on. -/
def targetOf (maxw off : Nat) : Target :=
  match off / 0x1000 with
  | 0 => controlTarget off
  | 1 => operandTarget maxw .A off
  | 2 => operandTarget maxw .B off
  | 3 => operandTarget maxw .E off
  | 4 => operandTarget maxw .N off
  | 5 => operandTarget maxw .R off
  | _ => .unmapped

/-- The offset in the block's window of a byte address, none outside the window of 2^16 bytes at P_BASE (00_scope.md R7,
20_memory.md R36). -/
def windowOffset (p : Params) (addr : Nat) : Option Nat :=
  if p.base ≤ addr ∧ addr < p.base + 2 ^ Config.addrW then some (addr - p.base) else none

/-- The host port gives an answer. -/
def State.respond (s : State) (x : Response) : State := { s with response := x }

/-- The host port answers a read with the next free word (10_state.md R22; log 7). -/
def State.respondUnspecified (s : State) : State :=
  { s with response := .data (Config.freeWord s.freeCount), freeCount := s.freeCount + 1 }

/-- A legal read of an offset (20_memory.md R37, R38). It changes no register. -/
def State.busRead (s : State) : Target → State
  | .id => s.respond (.data Config.idValue)
  | .config => s.respond (.data (configWord s.params))
  | .ctrl => s.respond (.data s.ctrlWord)
  | .cmd => s.respond (.data s.lastCmd)
  | .status => s.respond (.data s.statusWord)
  | .len => s.respond (.data s.lenWord)
  | .rounds => s.respond (.data s.roundsWord)
  | .operandWord x j =>
    if x = .R ∧ s.busy then s.respondUnspecified else s.respond (.data (operandWord (s.op x) j))
  | .unmapped => s.respond .busError

/-- A host write to CTRL (10_state.md R26): bit 31 = 1 is a soft reset and the other bits are discarded
(70_reset_and_hazards.md R109); otherwise IRQEN is bit 0, and BASESRC is bit 1 unless the block is busy. -/
def State.writeCtrl (s : State) (v : Word) : State :=
  if v.getLsbD 31 then s.resetBlock
  else { s with irqen := v.getLsbD 0, basesrc := if s.busy then s.basesrc else v.getLsbD 1 }

/-- A host write to LEN, dropped with WBUSY while busy (10_state.md R29, 20_memory.md R43). -/
def State.writeLen (s : State) (v : Word) : State :=
  if s.busy then s.setErr .wbusy else { s with len := v.extractLsb' 0 16 }

/-- A host write to ROUNDS, dropped with WBUSY while busy (10_state.md R30, 20_memory.md R43). -/
def State.writeRounds (s : State) (v : Word) : State :=
  if s.busy then s.setErr .wbusy else { s with rounds := v.extractLsb' 0 8 }

/-- A host write to word `j` of A, B, E or N, dropped with WBUSY while busy (20_memory.md R38, R43). -/
def State.writeOperandWord (s : State) (x : OpReg) (j : Nat) (v : Word) : State :=
  if s.busy then s.setErr .wbusy else s.setOperand x (withOperandWord (s.op x) j v)

/-- A host write of `w` to CMD: refused with BUSY while a command runs; an illegal word fails with BADOP; a legal word runs
the accept of its command (40_command_lifecycle.md R61). -/
def State.presentCommand (s : State) (w : Word) : Result :=
  if s.busy then .next (s.setErr .busy)
  else match decode w with
    | .ok i => exec i s
    | .error _ => .next (s.acceptIllegal w)

/-- A legal write of `v` to an offset (20_memory.md R37, R38, R40). A bus error changes no register. -/
def State.busWrite (s : State) (v : Word) : Target → Result
  | .id => .next (s.respond .busError)
  | .config => .next (s.respond .busError)
  | .ctrl => .next ((s.respond .written).writeCtrl v)
  | .cmd => (s.respond .written).presentCommand v
  | .status => .next ((s.respond .written).writeStatus v)
  | .len => .next ((s.respond .written).writeLen v)
  | .rounds => .next ((s.respond .written).writeRounds v)
  | .operandWord x j =>
    if x = .R then .next (s.respond .busError) else .next ((s.respond .written).writeOperandWord x j v)
  | .unmapped => .next (s.respond .busError)

/-- One host access at an offset: a bus error when its width or alignment is illegal (20_memory.md R39, R40). -/
def State.accessAt (s : State) (acc : Access) (off : Nat) : Result :=
  if acc.wellFormed off then
    match acc.kind with
    | .read => .next (s.busRead (targetOf s.params.maxw off))
    | .write v => s.busWrite v (targetOf s.params.maxw off)
  else .next (s.respond .busError)

/-- One host access (20_memory.md R36 to R43). An access outside the window does not reach the block. -/
def State.hostAccess (s : State) (acc : Access) : Result :=
  match windowOffset s.params acc.addr with
  | some off => s.accessAt acc off
  | none => .next (s.respond .notSelected)

end Sys2Proof.Machine
end

