-- ==== Sys2Proof/Machine/Events.lean ====
section
/-! DEFINITION. What each event of the total order does (20_memory.md R47), and what happens when no event is scheduled. -/

namespace Sys2Proof.Machine

/-- The engine's step that makes progress: the running command's action; an idle engine stays idle (40_command_lifecycle.md
R64, 60_exceptions.md R107). -/
def State.engineStep (s : State) : Result :=
  match s.phase with
  | .idle => .next s
  | .running cur => exec cur s

/-- One event (20_memory.md R47). -/
def State.handle (s : State) : Event → Result
  | .host acc => s.hostAccess acc
  | .engine => s.engineStep
  | .engineInternal => .next s.internalStep
  | .entropy v => .next (s.offerEntropy v)
  | .hardwareReset => .next (s.resetBlock.respond .none)

/-- The next event of the total order; when none is scheduled, the engine takes its step (70_reset_and_hazards.md R118;
log 2). -/
def State.nextEvent (s : State) : Result :=
  match s.schedule with
  | [] => s.engineStep
  | ev :: rest => { s with schedule := rest }.handle ev

/-- The host's write of the word `w` to CMD at the head of the schedule (30_encoding.md R57 `cmd`). -/
def State.scheduleCommand (s : State) (w : Word) : State :=
  { s with schedule := .host { addr := s.params.base + 0x000C, width := .w32, kind := .write w } :: s.schedule }

end Sys2Proof.Machine
end

