-- ==== Sys2Proof/Machine/Step.lean ====
section
/-! DEFINITION. One step of the machine, and where its next command comes from. -/

namespace Sys2Proof.Machine

/-- One step: the next event of the total order (20_memory.md R47). -/
def step (s : State) : Host.Outcome State Fault Refusal := s.nextEvent

/-- The command word of the table row stored where `step` takes its next command: the block fetches nothing (10_state.md
R18, 20_memory.md R51), and the host's next access is a write of the word to CMD (log 13). -/
def State.withFetchWord (s : State) (nbits w : Nat) : State := s.scheduleCommand (tableWord nbits w)

end Sys2Proof.Machine
end

