-- ==== Sys2Proof/Machine/HostProgram.lean ====
section
/-! DEFINITION. Host programs: the access notation and the pseudo-instructions of the spec (30_encoding.md R57, R58). A fixed
sequence of accesses is a list of events; what depends on the answers is a `Program`, run against whatever the other agents
do between the host's accesses (log 21). -/

namespace Sys2Proof.Machine

/-- `wr OFF, V` (30_encoding.md R57). -/
def wr (p : Params) (off : Nat) (v : Word) : Event := .host { addr := p.base + off, width := .w32, kind := .write v }

/-- `rd OFF` (30_encoding.md R57). -/
def rd (p : Params) (off : Nat) : Event := .host { addr := p.base + off, width := .w32, kind := .read }

/-- `cmd MNEMONIC` (30_encoding.md R57). -/
def cmd (p : Params) (i : Instr) : Event := wr p 0x000C (encode i)

/-- `ld X, V, L`: words 0 to L-1 of V, in increasing order (30_encoding.md R58). -/
def ld (p : Params) (x : OpReg) (v len : Nat) : List Event :=
  (List.range len).map fun j => wr p (windowBase x + 4 * j) (operandWord v j)

/-- `setlen L` (30_encoding.md R58). -/
def setlen (p : Params) (len : Nat) : List Event := [wr p 0x0014 (BitVec.ofNat 32 len)]

/-- `st L`: reads of words 0 to L-1 of R (30_encoding.md R58). -/
def st (p : Params) (len : Nat) : List Event := (List.range len).map fun j => rd p (windowBase .R + 4 * j)

/-- `clr`: clear DONE and ERR (30_encoding.md R58). -/
def clr (p : Params) : List Event := [wr p 0x0010 0x0000000A#32]

/-- The operand registers a command reads (10_state.md R19, 30_encoding.md R55). -/
def operandsRead : Instr → List OpReg
  | .nop => []
  | .montmul => [.A, .B, .N]
  | .rsq => [.N]
  | .modexp => [.A, .E, .N]
  | .mrround => [.A, .N]
  | .mrtest => [.N]
  | .modinv => [.A, .N]

/-- `L = max(1, ceil(bitLen(x) / 32))` for the largest operand `x` (48_host_procedures.md R86). -/
def hostLen (x : Nat) : Nat := max 1 ((bitLen x + 31) / 32)

/-- The largest operand of a call. NOP reads no operand, so 48_host_procedures.md R86 names none for it: there the model takes 0,
hence L = 1, and a `call` of NOP reads only word 0 of R (DESIGN CHOICE, log 23). -/
def largestOperand (i : Instr) (v : OpReg → Nat) : Nat := (operandsRead i).foldl (fun m x => max m (v x)) 0

/-- The accesses of `call(OP)` up to its CMD write: load every operand the command reads, all MAXW words of it
(20_memory.md R45, 70_reset_and_hazards.md R114), set LEN, write the command (48_host_procedures.md R86). The spec bounds L only
while an operand fits P_OPW; of a larger one the model loads the low MAXW words, and of L the LEN field keeps 16 bits (DESIGN
CHOICE, log 22). -/
def callAccesses (p : Params) (i : Instr) (v : OpReg → Nat) (len : Nat) : List Event :=
  (operandsRead i).flatMap (fun x => ld p x (v x) p.maxw) ++ setlen p len ++ [cmd p i]

/-- The events of an MRTEST that draws its bases: the engine asks for a base, and each offer is followed by an engine
step (43_primality.md R78, 60_exceptions.md R100). -/
def drawEvents (offers : List Nat) : List Event := .engine :: offers.flatMap fun a => [.entropy a, .engine]

/-- The events in order, from a state; it stops where an event stops. -/
def State.runEvents (s : State) : List Event → Result
  | [] => .next s
  | ev :: rest =>
    match s.handle ev with
    | .next t => t.runEvents rest
    | .fault f => .fault f
    | .refused r => .refused r

/-- The answers the host port gives to the host accesses among the events, in order. -/
def State.answers (s : State) : List Event → List Response
  | [] => []
  | ev :: rest =>
    match s.handle ev with
    | .next t =>
      match ev with
      | .host _ => t.response :: t.answers rest
      | .engine => t.answers rest
      | .engineInternal => t.answers rest
      | .entropy _ => t.answers rest
      | .hardwareReset => t.answers rest
    | .fault _ => []
    | .refused _ => []

/-- The value of `st`: the sum of word j times 2^(32j) (30_encoding.md R58, R54). -/
def valueOfAnswers : List Response → Nat
  | [] => 0
  | .data w :: rest => w.toNat + 2 ^ 32 * valueOfAnswers rest
  | .none :: rest => 2 ^ 32 * valueOfAnswers rest
  | .written :: rest => 2 ^ 32 * valueOfAnswers rest
  | .busError :: rest => 2 ^ 32 * valueOfAnswers rest
  | .notSelected :: rest => 2 ^ 32 * valueOfAnswers rest

/-! ### Programs: what the host does depends on the answers -/

/-- What the other agents do before each of the host's accesses to come: one list of events for each access (20_memory.md R47;
log 21). -/
abbrev Traffic := List (List Event)

/-- Events of the engine and of the entropy source: no host access and no reset. -/
def quiet (batch : List Event) : Prop := ∀ ev ∈ batch, (∀ acc, ev ≠ .host acc) ∧ ev ≠ .hardwareReset

/-- How a run of a host program ends. -/
inductive HostRun (α : Type) where
  /-- The program is done, with its value; `rest` is the traffic it has not used. -/
  | done (v : α) (s : State) (rest : Traffic)
  /-- The traffic ran out: the host is still before its next access. -/
  | pending (s : State)
  /-- An access got no normal answer: what the host then does is the platform's choice (20_memory.md R40). -/
  | busError (s : State)
  /-- An event stopped the block. No event does. -/
  | stopped
  deriving DecidableEq, Repr

/-- A host program: from a state and the traffic, its run. -/
abbrev Program (α : Type) := State → Traffic → HostRun α

/-- Continue with the value of a program that is done. -/
def HostRun.andThen {α β : Type} (x : HostRun α) (f : α → Program β) : HostRun β :=
  match x with
  | .done v s rest => f v s rest
  | .pending s => .pending s
  | .busError s => .busError s
  | .stopped => .stopped

/-- One program after another. -/
def Program.andThen {α β : Type} (x : Program α) (f : α → Program β) : Program β := fun s traffic => (x s traffic).andThen f

/-- A program that is done at once. -/
def Program.result {α : Type} (v : α) : Program α := fun s traffic => .done v s traffic

/-- What an answer of the port gives a program: a read's data, a normal write response, or no normal answer. -/
def HostRun.ofAnswer (t : State) (rest : Traffic) : HostRun Response :=
  match t.response with
  | .data w => .done (.data w) t rest
  | .written => .done .written t rest
  | .none => .busError t
  | .busError => .busError t
  | .notSelected => .busError t

/-- One access, after what the other agents do before it. -/
def access (ev : Event) : Program Response
  | s, [] => .pending s
  | s, batch :: rest =>
    match s.runEvents (batch ++ [ev]) with
    | .next t => HostRun.ofAnswer t rest
    | .fault _ => .stopped
    | .refused _ => .stopped

/-- A fixed sequence of accesses, and its answers. -/
def accesses : List Event → Program (List Response)
  | [] => Program.result []
  | ev :: rest => (access ev).andThen fun x => (accesses rest).andThen fun xs => Program.result (x :: xs)

/-- The word a read got. -/
def Program.ofWord (x : Response) : Program Word := fun s traffic =>
  match x with
  | .data w => .done w s traffic
  | .none => .busError s
  | .written => .busError s
  | .busError => .busError s
  | .notSelected => .busError s

/-- `rd 0x0010`: one read of STATUS (30_encoding.md R57). -/
def readStatus (p : Params) : Program Word := (access (rd p 0x0010)).andThen Program.ofWord

/-- `wait`: read STATUS until bit 0 of the value is 0; its value is the STATUS read last (30_encoding.md R58). -/
def wait (p : Params) : Program Word
  | s, [] => .pending s
  | s, batch :: rest =>
    match readStatus p s [batch] with
    | .done w t _ => if w.getLsbD 0 then wait p t rest else .done w t rest
    | .pending t => .pending t
    | .busError t => .busError t
    | .stopped => .stopped

/-- `cmd MNEMONIC; wait` (30_encoding.md R57, R58). -/
def command (p : Params) (i : Instr) : Program Word := (accesses [cmd p i]).andThen fun _ => wait p

/-- The value that `st L` reads (30_encoding.md R58). -/
def readR (p : Params) (len : Nat) : Program Nat := (accesses (st p len)).andThen fun xs => Program.result (valueOfAnswers xs)

/-- `mov R->X, L`: `st L`, then `ld X` of the value it read (30_encoding.md R58). -/
def movR (p : Params) (x : OpReg) (len : Nat) : Program (List Response) := (readR p len).andThen fun v => accesses (ld p x v len)

/-- A program in which `LEN` stands for the value the LEN register holds (30_encoding.md R58). -/
def withLen {α : Type} (f : Nat → Program α) : Program α := fun s traffic => f s.len.toNat s traffic

/-- `tomont` (30_encoding.md R58). -/
def tomont (p : Params) : Program Word :=
  withLen fun len => (command p .rsq).andThen fun _ => (movR p .B len).andThen fun _ => command p .montmul

/-- `frommont` (30_encoding.md R58). -/
def frommont (p : Params) : Program Word := withLen fun len => (accesses (ld p .B 1 len)).andThen fun _ => command p .montmul

/-- `modmul` (30_encoding.md R58). -/
def modmul (p : Params) : Program Word :=
  withLen fun len =>
    (command p .montmul).andThen fun _ => (movR p .A len).andThen fun _ => (command p .rsq).andThen fun _ =>
      (movR p .B len).andThen fun _ => command p .montmul

end Sys2Proof.Machine
end

