-- ==== Sys2Proof/Machine/HostProcedures.lean ====
section
/-! DEFINITION. The host procedures of 48_host_procedures.md: key generation, encryption and decryption. They are host
software, not the block (R85): they use the commands' values (R73, R79, R82), and the host's random source is given as
lists of values (log 15). -/

namespace Sys2Proof.Machine

/-- Why a recovered block is malformed (48_host_procedures.md R92). -/
inductive MalformedReason where
  /-- "expected leading zero". -/
  | leadingZero
  /-- "unexpected block type". -/
  | blockType
  /-- "missing terminator". -/
  | missingTerminator
  deriving DecidableEq, Repr

/-- The host procedures' error values; they are no STATUS codes (48_host_procedures.md R85). -/
inductive HostError where
  | invalidParameter
  | retriesExhausted
  | messageTooLong
  | invalidCipherLength
  | malformedBlock (r : MalformedReason)
  deriving DecidableEq, Repr

/-- How a host procedure ends. -/
inductive HostResult (α : Type) where
  | ok (v : α)
  | err (e : HostError)
  /-- A command was called outside its preconditions (48_host_procedures.md R86). -/
  | internalFault
  /-- The random source has given no further value yet: the procedure is still blocked on it. -/
  | blocked
  deriving DecidableEq, Repr

/-- Continue with the value of a procedure that succeeded. -/
def HostResult.andThen {α β : Type} (x : HostResult α) (f : α → HostResult β) : HostResult β :=
  match x with
  | .ok v => f v
  | .err e => .err e
  | .internalFault => .internalFault
  | .blocked => .blocked

/-- The source's PublicKey (48_host_procedures.md R88). -/
structure PublicKey where
  n : Nat
  e : Nat
  deriving DecidableEq, Repr

/-- The source's PrivateKey (48_host_procedures.md R88). -/
structure PrivateKey where
  pub : PublicKey
  d : Nat
  p : Nat
  q : Nat
  deriving DecidableEq, Repr

/-- What the host's random source and the entropy port will supply: candidates for fresh primes, and bases. -/
structure HostRandom where
  candidates : List Nat
  bases : List Nat
  deriving DecidableEq, Repr

/-- `k`, the byte length of the modulus (00_scope.md R15). -/
def modulusBytes (n : Nat) : Nat := (bitLen n + 7) / 8

/-- STATUS.ERRCODE is one of 1 or 3 to 8: the command failed at accept (40_command_lifecycle.md R66). -/
def failedAtAccept (status : Word) : Bool :=
  decide (status.extractLsb' 4 4 = 1#4 ∨ (3 ≤ (status.extractLsb' 4 4).toNat ∧ (status.extractLsb' 4 4).toNat ≤ 8))

/-- What a `call` makes of the STATUS it reads: an internal fault of the host procedure, or RESULT and R
(48_host_procedures.md R86, 40_command_lifecycle.md R66). -/
def callOutcome (p : Params) (len : Nat) (status : Word) : Program (HostResult (Bool × Nat)) :=
  if failedAtAccept status then Program.result .internalFault
  else (readR p len).andThen fun r => Program.result (.ok (status.getLsbD 2, r))

/-- `call(OP)` on the bus: load the operands, set LEN, write the command, `wait`, read STATUS, and use RESULT and R
(48_host_procedures.md R86). What it does for an operand above P_OPW and for NOP is the model's choice (log 22, log 23). It writes neither
ROUNDS nor CTRL, so MRTEST runs with the settings the block holds (log 24). -/
def call (p : Params) (i : Instr) (v : OpReg → Nat) : Program (HostResult (Bool × Nat)) :=
  (accesses (callAccesses p i v (hostLen (largestOperand i v)))).andThen fun _ =>
    (wait p).andThen fun _ => (readStatus p).andThen fun status => callOutcome p (hostLen (largestOperand i v)) status

/-- The value of `call(MODEXP)`: an internal fault when the command would fail at accept (48_host_procedures.md R86,
42_modexp.md R73), and also for an operand above P_OPW (DESIGN CHOICE, log 22). -/
def callModexp (p : Params) (a e n : Nat) : HostResult Nat :=
  if n % 2 = 1 ∧ hostLen (max a (max e n)) ≤ p.maxw then .ok (powMod a e n) else .internalFault

/-- The value of `call(MODINV)`, none for "no inverse" (48_host_procedures.md R86, 44_modinv.md R82); an internal fault also for
an operand above P_OPW (DESIGN CHOICE, log 22). -/
def callModinv (p : Params) (a n : Nat) : HostResult (Option Nat) :=
  if 0 < n ∧ hostLen (max a n) ≤ p.maxw then .ok (modInv a n) else .internalFault

/-- `IsPrime(x)`: MRTEST with ROUNDS = 10 and BASESRC = 1 (48_host_procedures.md R88); an internal fault for `x` above P_OPW
(DESIGN CHOICE, log 22). The spec does not say when the host writes these two settings; the value assumes that the block holds
them (DESIGN CHOICE, log 24). -/
def isPrime (p : Params) (x : Nat) (rnd : HostRandom) : HostResult (Bool × HostRandom) :=
  if hostLen x ≤ p.maxw then
    match drawnVerdict x 10 rnd.bases with
    | some (f, rest) => .ok (f, { rnd with bases := rest })
    | none => .blocked
  else .internalFault

/-- The search of `FreshPrime(b)` over the candidates: only odd ones with exactly `b` bits are tried
(48_host_procedures.md R88). -/
def searchPrime (p : Params) (b : Nat) : List Nat → List Nat → HostResult (Nat × HostRandom)
  | [], _ => .blocked
  | x :: candidates, bases =>
    if 2 ^ (b - 1) ≤ x ∧ x < 2 ^ b ∧ x % 2 = 1 then
      (isPrime p x { candidates := candidates, bases := bases }).andThen fun r =>
        if r.1 then .ok (x, r.2) else searchPrime p b candidates r.2.bases
    else searchPrime p b candidates bases

/-- `FreshPrime(b)`; no prime has fewer than 2 bits (48_host_procedures.md R88). -/
def freshPrime (p : Params) (b : Nat) (rnd : HostRandom) : HostResult (Nat × HostRandom) :=
  if b < 2 then .err .invalidParameter else searchPrime p b rnd.candidates rnd.bases

/-- One factor of an attempt: a non-zero seed that passes `IsPrime`, else a fresh prime (48_host_procedures.md R88). -/
def chooseFactor (p : Params) (b seed : Nat) (rnd : HostRandom) : HostResult (Nat × HostRandom) :=
  if seed = 0 then freshPrime p b rnd
  else (isPrime p seed rnd).andThen fun r => if r.1 then .ok (seed, r.2) else freshPrime p b r.2

/-- The key of two factors, or none when the attempt is discarded: wrong bit length, equal factors (90_conflicts.md C1), even
modulus (C3), or no inverse (48_host_procedures.md R88). -/
def keyOfFactors (p : Params) (bits f g : Nat) : HostResult (Option PrivateKey) :=
  if bitLen (f * g) ≠ bits then .ok none
  else if f = g then .ok none
  else if f * g % 2 = 0 then .ok none
  else (callModinv p 65537 ((f - 1) * (g - 1))).andThen fun d =>
    match d with
    | some v => .ok (some { pub := { n := f * g, e := 65537 }, d := v, p := f, q := g })
    | none => .ok none

/-- The counted loop of key generation. Seeds are used on the first attempt only, so every later attempt has none
(90_conflicts.md C2, 48_host_procedures.md R88). -/
def generateLoop (p : Params) (bits : Nat) : Nat → Nat → Nat → HostRandom → HostResult PrivateKey
  | 0, _, _, _ => .err .retriesExhausted
  | k + 1, sp, sq, rnd =>
    (chooseFactor p (bits / 2) sp rnd).andThen fun f =>
      (chooseFactor p (bits / 2) sq f.2).andThen fun g =>
        (keyOfFactors p bits f.1 g.1).andThen fun key =>
          match key with
          | some v => .ok v
          | none => generateLoop p bits k 0 0 g.2

/-- `generate(bitLength, seedP?, seedQ?)`; an absent seed is 0 (48_host_procedures.md R88). -/
def generate (p : Params) (bits : Int) (sp sq : Nat) (rnd : HostRandom) : HostResult PrivateKey :=
  if bits ≤ 0 then .err .invalidParameter else generateLoop p bits.toNat 10 sp sq rnd

/-- `len` non-zero bytes by rejection sampling from the random bytes (48_host_procedures.md R90). -/
def takePadding : Nat → List Byte → Option (List Byte)
  | 0, _ => some []
  | _ + 1, [] => none
  | k + 1, x :: stream =>
    if x = 0#8 then takePadding (k + 1) stream
    else match takePadding k stream with
      | some pad => some (x :: pad)
      | none => none

/-- The encryption block `00 02 padding 00 message` (48_host_procedures.md R90). -/
def encryptionBlock (pad message : List Byte) : List Byte := 0x00#8 :: 0x02#8 :: (pad ++ 0x00#8 :: message)

/-- `encrypt(pub, message)` with the bytes of the random source (48_host_procedures.md R90). -/
def encrypt (p : Params) (pub : PublicKey) (message stream : List Byte) : HostResult (List Byte) :=
  if modulusBytes pub.n < message.length + 11 then .err .messageTooLong
  else match takePadding (modulusBytes pub.n - message.length - 3) stream with
    | none => .blocked
    | some pad =>
      (callModexp p (natOfBytes (encryptionBlock pad message)) pub.e pub.n).andThen fun c =>
        .ok (bytesOfNat (modulusBytes pub.n) c)

/-- What follows the first zero byte, none when there is no zero byte (48_host_procedures.md R92). -/
def afterTerminator : List Byte → Option (List Byte)
  | [] => none
  | x :: rest => if x = 0x00#8 then some rest else afterTerminator rest

/-- The message of a recovered block, or why it is malformed (48_host_procedures.md R92). -/
def unpad : List Byte → HostResult (List Byte)
  | [] => .err (.malformedBlock .leadingZero)
  | b0 :: rest =>
    if b0 ≠ 0x00#8 then .err (.malformedBlock .leadingZero)
    else match rest with
      | [] => .err (.malformedBlock .blockType)
      | b1 :: body =>
        if b1 ≠ 0x02#8 then .err (.malformedBlock .blockType)
        else match afterTerminator body with
          | some m => .ok m
          | none => .err (.malformedBlock .missingTerminator)

/-- `decrypt(priv, cipher)` (48_host_procedures.md R92). -/
def decrypt (p : Params) (priv : PrivateKey) (cipher : List Byte) : HostResult (List Byte) :=
  if cipher.length ≠ modulusBytes priv.pub.n then .err .invalidCipherLength
  else (callModexp p (natOfBytes cipher) priv.d priv.pub.n).andThen fun m =>
    unpad (bytesOfNat (modulusBytes priv.pub.n) m)

end Sys2Proof.Machine
end

