-- ==== Sys2Proof/Safety.lean ====
section
/-! DEFINITION. What holds of every state the block can be in: the invariant the claims use. -/

namespace Sys2Proof.Machine

/-- Every operand register is below 2^P_OPW (10_state.md R19). -/
def State.OperandsFit (s : State) : Prop := ∀ x, s.op x < 2 ^ s.params.opw

/-- ERR = 0 if and only if ERRCODE = 0 (10_state.md R28). -/
def State.ErrAgrees (s : State) : Prop := s.err = false ↔ s.errCode = .none

/-- What the acceptance checks of a command answer in a state, after check 1 (40_command_lifecycle.md R62). -/
def checksOf (i : Instr) (s : State) : ErrCode :=
  match i with
  | .nop => .none
  | .montmul => montmulChecks s
  | .rsq => rsqChecks s
  | .modexp => modexpChecks s
  | .mrround => mrroundChecks s
  | .mrtest => mrtestChecks s
  | .modinv => modinvChecks s

/-- While a command runs: it is not NOP, its checks pass on the live registers (20_memory.md R48), and DONE and RESULT are 0
from the accept on (40_command_lifecycle.md R61, 60_exceptions.md R98, 70_reset_and_hazards.md R112). -/
structure State.RunOk (s : State) (cur : Instr) : Prop where
  notNop : cur ≠ .nop
  checksPass : checksOf cur s = .none
  notDone : s.done = false
  resultZero : s.result = false

/-- An entropy request is outstanding or answered only while MRTEST runs with BASESRC = 1 on an odd candidate of 5 or more,
before its last round (43_primality.md R78, 60_exceptions.md R100), and an answer is a base in `[2, N-2]`. -/
structure State.RequestOk (s : State) : Prop where
  running : s.phase = .running .mrtest
  drawing : s.basesrc = true
  candidate : trivialVerdict (s.op .N) = none
  roundLeft : s.round < s.rounds.toNat
  inRange : ∀ a, s.entropy = .answered a → 2 ≤ a ∧ a + 2 ≤ s.op .N

/-- The invariant of the block, kept by every step. -/
structure State.Inv (s : State) : Prop where
  params : s.params.wellFormed = true
  operands : s.OperandsFit
  err : s.ErrAgrees
  running : ∀ cur, s.phase = .running cur → s.RunOk cur
  request : s.entropy ≠ .none → s.RequestOk
  roundZero : s.entropy = .none → s.round = 0

end Sys2Proof.Machine
end

