-- ==== Sys2Proof/Certificates/Slice0/Obligations.lean ====
section
/-! DEFINITION. The statements for the provers. Each docstring names the rules of spec/ it formalises. -/

namespace Sys2Proof.Machine

/-! ### The states the statements name -/

/-- `s` after an accept that starts `cur`, with LASTCMD = `w` (40_command_lifecycle.md R61). -/
def acceptedAs (s : State) (w : Word) (cur : Instr) : State :=
  { s with lastCmd := w, done := false, result := false, err := false, errCode := .none, phase := .running cur }

/-- `s` after an accept that fails with code `c`, with LASTCMD = `w` (40_command_lifecycle.md R61, R63). -/
def failedAs (s : State) (w : Word) (c : ErrCode) : State :=
  { s with lastCmd := w, done := true, result := false, err := true, errCode := c }

/-- `s` after the completion of its command with `R = v` and `RESULT = f` (40_command_lifecycle.md R65); the round counter and
the entropy request, engine scratch, are dropped. -/
def completedWith (s : State) (v : Nat) (f : Bool) : State :=
  { s with r := v, result := f, done := true, phase := .idle, round := 0, entropy := .none }

/-- `s` after a NOP (40_command_lifecycle.md R67). -/
def afterNop (s : State) (w : Word) : State :=
  { s with
    lastCmd := w, done := true, result := false, err := false, errCode := .none, phase := .idle, round := 0,
    entropy := .none }

/-- An access that is a soft reset: a legal write to CTRL with bit 31 = 1 (70_reset_and_hazards.md R109). -/
def Access.isSoftReset (acc : Access) (p : Params) : Prop :=
  acc.width = .w32 ∧ acc.addr = p.base + 0x0008 ∧ ∃ v : Word, acc.kind = .write v ∧ v.getLsbD 31 = true

/-- An access that enables the interrupt: a legal write to CTRL with bit 31 = 0 and bit 0 = 1 (10_state.md R26). -/
def Access.enablesIrq (acc : Access) (p : Params) : Prop :=
  acc.width = .w32 ∧ acc.addr = p.base + 0x0008 ∧
    ∃ v : Word, acc.kind = .write v ∧ v.getLsbD 31 = false ∧ v.getLsbD 0 = true

/-- The offset `off` of the window is unmapped (20_memory.md R37). -/
def unmappedOffset (maxw off : Nat) : Prop :=
  (0x001C ≤ off ∧ off < 0x1000) ∨ 0x6000 ≤ off ∨ (0x1000 ≤ off ∧ off < 0x6000 ∧ maxw ≤ off % 0x1000 / 4)

/-- The access gets a bus error (20_memory.md R40): illegal width or alignment, unmapped, or a write to ID, CONFIG or R. -/
def busErrorCase (s : State) (acc : Access) (off : Nat) : Prop :=
  acc.width ≠ .w32 ∨ off % 4 ≠ 0 ∨ unmappedOffset s.params.maxw off ∨
    (∃ v, acc.kind = .write v ∧ (off = 0x0000 ∨ off = 0x0004 ∨ (0x5000 ≤ off ∧ off < 0x6000)))

/-- A command whose result draws no entropy: any command but MRTEST, an MRTEST over the fixed table, or an MRTEST of a trivial
candidate (43_primality.md R79). -/
def drawsNothing (s : State) (cur : Instr) : Prop :=
  cur ≠ .mrtest ∨ s.basesrc = false ∨ s.n < 4 ∨ s.n % 2 = 0

/-- `s` after the loads and the LEN of a call (48_host_procedures.md R86). -/
def loadedFor (s : State) (i : Instr) (v : OpReg → Nat) (len : Nat) : State :=
  { (operandsRead i).foldl (fun u x => u.setOperand x (v x)) s with len := BitVec.ofNat 16 len }

/-- Traffic before the reads of a `wait`, one batch of events for each: before the last read, and not earlier, the engine takes its
completing step, and around it there is any number of internal steps and of offers of the entropy source
(40_command_lifecycle.md R64). -/
def completingTraffic (during : Traffic) : Prop :=
  ∃ polls last, during = polls ++ [last] ∧ (∀ batch ∈ during, quiet batch) ∧ (∀ batch ∈ polls, Event.engine ∉ batch) ∧
    Event.engine ∈ last

/-- Traffic of `k` accesses with only the engine and the entropy source moving before each. -/
def quietTraffic (k : Nat) (traffic : Traffic) : Prop := traffic.length = k ∧ ∀ batch ∈ traffic, quiet batch

end Sys2Proof.Machine

open Sys2Proof Sys2Proof.Machine

/-! ### Encoding -/

/-- The seven command words of the opcode map, bit by bit (30_encoding.md R55). -/
def Obligations.SevenCommandWordsDecode : Prop :=
  decode 0b00000000000000000000000000000000#32 = .ok .nop ∧
  decode 0b00000000000000000000000000000001#32 = .ok .montmul ∧
  decode 0b00000000000000000000000000000010#32 = .ok .rsq ∧
  decode 0b00000000000000000000000000000011#32 = .ok .modexp ∧
  decode 0b00000000000000000000000000000100#32 = .ok .mrround ∧
  decode 0b00000000000000000000000000000101#32 = .ok .mrtest ∧
  decode 0b00000000000000000000000000000110#32 = .ok .modinv ∧
  decode 0b00000000000000000000000000000111#32 = .error .reservedOpcode ∧
  decode 0b00000000000000000000000100000011#32 = .error .rsvdNonZero

/-- Decoding and encoding agree in both directions, on words and on bytes (byte lane 0 first, log 19): a word decodes to a command
exactly when it is its encoding, and a list of bytes to a command and a rest exactly when it is the command's bytes and the
rest. Every other word is refused for the reason the spec gives, in bytes as well, and a list of fewer than four bytes, and no
other, is too short (30_encoding.md R53, R55, R56, 20_memory.md R44). -/
def Obligations.DecodeAndEncodeAgree : Prop :=
  (∀ (w : Word) (i : Instr), decode w = .ok i ↔ w = encode i) ∧
  (∀ (l : List Byte) (i : Instr) (rest : List Byte), decodeBytes l = .ok (i, rest) ↔ l = encodeBytes i ++ rest) ∧
  (∀ w : Word, decode w = .error .rsvdNonZero ↔ w.extractLsb' 8 24 ≠ 0#24) ∧
  (∀ w : Word, decode w = .error .reservedOpcode ↔ w.extractLsb' 8 24 = 0#24 ∧ 0x07 ≤ (w.extractLsb' 0 8).toNat) ∧
  (∀ (b0 b1 b2 b3 : Byte) (rest : List Byte) (e : DecodeRefusal),
    decodeBytes (b0 :: b1 :: b2 :: b3 :: rest) = .error e ↔ decode (b3 ++ b2 ++ b1 ++ b0) = .error e) ∧
  (∀ l : List Byte, decodeBytes l = .error .truncated ↔ l.length < 4)

/-! ### Steps -/

/-- A step runs the decoded command: a CMD write of a legal word while idle is `exec` of its command; with an empty schedule, and
at an engine event, the running command is executed (30_encoding.md R53, 40_command_lifecycle.md R61, R64; the schedule is the
model's own, log 2, log 13). -/
def Obligations.StepRunsDecodedCommand : Prop :=
  (∀ (s : State) (w : Word) (i : Instr) (rest : List Event),
    s.phase = .idle → s.schedule = wr s.params 0x000C w :: rest → decode w = .ok i →
      step s = exec i { s with schedule := rest, response := .written }) ∧
  (∀ (s : State) (cur : Instr), s.phase = .running cur → s.schedule = [] → step s = exec cur s) ∧
  (∀ (s : State) (cur : Instr) (rest : List Event), s.phase = .running cur → s.schedule = .engine :: rest →
    step s = exec cur { s with schedule := rest }) ∧
  (∀ (s : State) (w : Nat) (i : Instr), s.phase = .idle → decode (BitVec.ofNat 32 w) = .ok i →
    step (s.withFetchWord 32 w) = exec i { s with response := .written })

/-- An idle block stays as it is until something reaches it (60_exceptions.md R107). The events are the model's: that the engine
moves when no event is scheduled is log 2, that engine events of an idle block change nothing is log 17, and that an offer no
request waits for changes nothing is log 11, all three choices or inferences of the model. -/
def Obligations.IdleBlockWaits : Prop :=
  ∀ s : State, s.phase = .idle → s.entropy = .none →
    (s.schedule = [] → step s = .next s) ∧ s.handle .engine = .next s ∧ s.handle .engineInternal = .next s ∧
      ∀ v, s.handle (.entropy v) = .next s

/-- The block never stops: every step from every state answers a next state (60_exceptions.md R95). -/
def Obligations.EveryStepGoesOn : Prop :=
  ∀ s : State, ∃ t : State, step s = .next t

/-! ### Accept and checks -/

/-- The accept (40_command_lifecycle.md R61): a host write to CMD presents its word; while busy it is refused with BUSY; an illegal
word fails with BADOP, NOP completes, and any other command starts or fails with the code of its checks. -/
def Obligations.CommandWriteIsAccept : Prop :=
  ∀ (s : State) (w : Word),
    s.handle (wr s.params 0x000C w) = ({ s with response := .written } : State).presentCommand w ∧
    (∀ cur, s.phase = .running cur → s.presentCommand w = .next { s with err := true, errCode := .busy }) ∧
    (s.phase = .idle →
      (∀ e, decode w = .error e → s.presentCommand w = .next (failedAs s w .badop)) ∧
      (decode w = .ok .nop → s.presentCommand w = .next (afterNop s w)) ∧
      (∀ i, i ≠ .nop → decode w = .ok i → checksOf i s = .none → s.presentCommand w = .next (acceptedAs s w i)) ∧
      (∀ i, i ≠ .nop → decode w = .ok i → checksOf i s ≠ .none →
        s.presentCommand w = .next (failedAs s w (checksOf i s))))

/-- The acceptance checks of every command, in order (40_command_lifecycle.md R62). -/
def Obligations.ChecksInTableOrder : Prop :=
  (∀ w : Word, (∃ e, decode w = .error e) ↔
    w.extractLsb' 8 24 ≠ 0#24 ∨ 0x07 ≤ (w.extractLsb' 0 8).toNat) ∧
  ∀ s : State,
    let badLen := s.len.toNat = 0 ∨ s.params.maxw < s.len.toNat
    let limit := 2 ^ (32 * s.len.toNat)
    checksOf .nop s = .none ∧
    checksOf .montmul s =
      (if badLen then .len else if limit ≤ s.a ∨ limit ≤ s.b ∨ limit ≤ s.n then .width
       else if s.n = 0 then .modzero else if s.n % 2 = 0 then .evenmod
       else if s.n ≤ s.a ∨ s.n ≤ s.b then .range else .none) ∧
    checksOf .rsq s =
      (if badLen then .len else if limit ≤ s.n then .width
       else if s.n = 0 then .modzero else if s.n % 2 = 0 then .evenmod else .none) ∧
    checksOf .modexp s =
      (if badLen then .len else if limit ≤ s.a ∨ limit ≤ s.e ∨ limit ≤ s.n then .width
       else if s.n = 0 then .modzero else if s.n % 2 = 0 then .evenmod else .none) ∧
    checksOf .mrround s =
      (if badLen then .len else if limit ≤ s.a ∨ limit ≤ s.n then .width else .none) ∧
    checksOf .mrtest s =
      (if badLen then .len else if limit ≤ s.n then .width
       else if s.rounds.toNat = 0 ∨ (s.basesrc = false ∧ 16 < s.rounds.toNat) then .rounds else .none) ∧
    checksOf .modinv s =
      (if badLen then .len else if limit ≤ s.a ∨ limit ≤ s.n then .width
       else if s.n = 0 then .modzero else .none)

/-! ### The seven commands -/

/-- NOP completes inside its accept, whatever LEN is, and writes only STATUS and LASTCMD; while busy it is refused; with IRQEN = 1 it
raises irq; from reset it leaves STATUS = 0x00000002 (40_command_lifecycle.md R67). -/
def Obligations.NopCompletesInAccept : Prop :=
  decode 0x00000000#32 = .ok .nop ∧
  (∀ s : State,
    (s.phase = .idle → exec .nop s = .next (afterNop s 0x00000000#32)) ∧
    (s.irqen = true → (afterNop s 0x00000000#32).irq = true) ∧
    (∀ cur, s.phase = .running cur →
      s.presentCommand 0x00000000#32 = .next { s with err := true, errCode := .busy })) ∧
  (afterNop State.reset 0x00000000#32).statusWord = 0x00000002#32

/-- MONTMUL: its accept with its checks, and its completion with R = (A * B * RM^-1) mod N and RESULT = 1
(41_montgomery.md R69; `x` is `inv(2^(32*LEN), N)` of 00_scope.md R10). -/
def Obligations.MontmulAcceptAndResult : Prop :=
  decode 0x00000001#32 = .ok .montmul ∧ ∀ s : State,
    (s.phase = .idle →
      exec .montmul s = .next
        (if s.len.toNat = 0 ∨ s.params.maxw < s.len.toNat then failedAs s 0x00000001#32 .len
         else if 2 ^ (32 * s.len.toNat) ≤ s.a ∨ 2 ^ (32 * s.len.toNat) ≤ s.b ∨ 2 ^ (32 * s.len.toNat) ≤ s.n then
           failedAs s 0x00000001#32 .width
         else if s.n = 0 then failedAs s 0x00000001#32 .modzero
         else if s.n % 2 = 0 then failedAs s 0x00000001#32 .evenmod
         else if s.n ≤ s.a ∨ s.n ≤ s.b then failedAs s 0x00000001#32 .range
         else acceptedAs s 0x00000001#32 .montmul)) ∧
    (s.phase = .running .montmul → s.n % 2 = 1 →
      ∃ x, x < s.n ∧ 2 ^ (32 * s.len.toNat) * x % s.n = 1 % s.n ∧
        exec .montmul s = .next (completedWith s (s.a * s.b * x % s.n) true))

/-- RSQ: its accept with its checks, and its completion with R = 2^(64*LEN) mod N and RESULT = 1 (41_montgomery.md R70). -/
def Obligations.RsqAcceptAndResult : Prop :=
  decode 0x00000002#32 = .ok .rsq ∧ ∀ s : State,
    (s.phase = .idle →
      exec .rsq s = .next
        (if s.len.toNat = 0 ∨ s.params.maxw < s.len.toNat then failedAs s 0x00000002#32 .len
         else if 2 ^ (32 * s.len.toNat) ≤ s.n then failedAs s 0x00000002#32 .width
         else if s.n = 0 then failedAs s 0x00000002#32 .modzero
         else if s.n % 2 = 0 then failedAs s 0x00000002#32 .evenmod
         else acceptedAs s 0x00000002#32 .rsq)) ∧
    (s.phase = .running .rsq →
      exec .rsq s = .next (completedWith s (2 ^ (64 * s.len.toNat) % s.n) true))

/-- MODEXP: its accept with its checks, and its completion with R = ((A mod N)^E) mod N and RESULT = 1 (42_modexp.md R73). -/
def Obligations.ModexpAcceptAndResult : Prop :=
  decode 0x00000003#32 = .ok .modexp ∧ ∀ s : State,
    (s.phase = .idle →
      exec .modexp s = .next
        (if s.len.toNat = 0 ∨ s.params.maxw < s.len.toNat then failedAs s 0x00000003#32 .len
         else if 2 ^ (32 * s.len.toNat) ≤ s.a ∨ 2 ^ (32 * s.len.toNat) ≤ s.e ∨ 2 ^ (32 * s.len.toNat) ≤ s.n then
           failedAs s 0x00000003#32 .width
         else if s.n = 0 then failedAs s 0x00000003#32 .modzero
         else if s.n % 2 = 0 then failedAs s 0x00000003#32 .evenmod
         else acceptedAs s 0x00000003#32 .modexp)) ∧
    (s.phase = .running .modexp → 0 < s.n →
      exec .modexp s = .next (completedWith s ((s.a % s.n) ^ s.e % s.n) true))

/-- The round MR(n, a) passes exactly for 2, 3, and the odd n >= 5 for which the base is degenerate or the standard
Miller-Rabin condition holds (43_primality.md R76; 93_implementation_defined.md G4). -/
def Obligations.RoundIsStrongProbablePrimeTest : Prop :=
  ∀ n a : Nat, millerRabin n a = true ↔
    n = 2 ∨ n = 3 ∨ (5 ≤ n ∧ n % 2 = 1 ∧
      (a % n = 0 ∨ a % n = 1 ∨ a % n = n - 1 ∨
        ∃ k d, n - 1 = 2 ^ k * d ∧ d % 2 = 1 ∧
          (a ^ d % n = 1 ∨ ∃ j, j < k ∧ a ^ (d * 2 ^ j) % n = n - 1)))

/-- MRROUND: its accept with its checks, and its completion with R = RESULT = MR(N, A) (43_primality.md R77). -/
def Obligations.MrroundAcceptAndResult : Prop :=
  decode 0x00000004#32 = .ok .mrround ∧ ∀ s : State,
    (s.phase = .idle →
      exec .mrround s = .next
        (if s.len.toNat = 0 ∨ s.params.maxw < s.len.toNat then failedAs s 0x00000004#32 .len
         else if 2 ^ (32 * s.len.toNat) ≤ s.a ∨ 2 ^ (32 * s.len.toNat) ≤ s.n then failedAs s 0x00000004#32 .width
         else acceptedAs s 0x00000004#32 .mrround)) ∧
    (s.phase = .running .mrround →
      (millerRabin s.n s.a = true → exec .mrround s = .next (completedWith s 1 true)) ∧
      (millerRabin s.n s.a = false → exec .mrround s = .next (completedWith s 0 false)))

/-- MRTEST without draws: its accept with its checks; a trivial candidate gives its verdict under either base source; with
BASESRC = 0 an odd candidate of 5 or more gives 1 exactly when every round with the table's first ROUNDS bases passes
(43_primality.md R78, R79, 10_state.md R32). That each of these completes in one engine step is the model's choice (log 10,
log 9), which 40_command_lifecycle.md R64 allows. -/
def Obligations.MrtestWithoutDraws : Prop :=
  decode 0x00000005#32 = .ok .mrtest ∧ ∀ s : State,
    (s.phase = .idle →
      exec .mrtest s = .next
        (if s.len.toNat = 0 ∨ s.params.maxw < s.len.toNat then failedAs s 0x00000005#32 .len
         else if 2 ^ (32 * s.len.toNat) ≤ s.n then failedAs s 0x00000005#32 .width
         else if s.rounds.toNat = 0 ∨ (s.basesrc = false ∧ 16 < s.rounds.toNat) then failedAs s 0x00000005#32 .rounds
         else acceptedAs s 0x00000005#32 .mrtest)) ∧
    (s.phase = .running .mrtest →
      ((s.n = 2 ∨ s.n = 3) → exec .mrtest s = .next (completedWith s 1 true)) ∧
      ((s.n < 2 ∨ (3 < s.n ∧ s.n % 2 = 0)) → exec .mrtest s = .next (completedWith s 0 false)) ∧
      (s.basesrc = false → 4 < s.n → s.n % 2 = 1 →
        ((∀ a ∈ [2, 3, 5, 7, 11, 13, 17, 19, 23, 29, 31, 37, 41, 43, 47, 53].take s.rounds.toNat,
            millerRabin s.n a = true) → exec .mrtest s = .next (completedWith s 1 true)) ∧
        ((∃ a ∈ [2, 3, 5, 7, 11, 13, 17, 19, 23, 29, 31, 37, 41, 43, 47, 53].take s.rounds.toNat,
            millerRabin s.n a = false) → exec .mrtest s = .next (completedWith s 0 false))))

/-- One engine step of an MRTEST that draws its bases: it asks for a base, takes no step while it waits, and runs one round on the
answer (43_primality.md R78, R79, 60_exceptions.md R100). That one step asks for the first base, and one runs a round and asks
again or completes, is the model's choice (log 10). R is engine scratch while it runs, so only its width is said
(10_state.md R22; the free value of log 8). -/
def Obligations.MrtestDrawnRound : Prop :=
  ∀ s : State, s.phase = .running .mrtest → s.basesrc = true → 4 < s.n → s.n % 2 = 1 →
    (s.entropy = .none → ∃ v, v < 2 ^ s.params.opw ∧
      exec .mrtest s = .next { s with r := v, freeCount := s.freeCount + 1, entropy := .requested }) ∧
    (s.entropy = .requested → exec .mrtest s = .next s) ∧
    (∀ a, s.entropy = .answered a →
      (millerRabin s.n a = false → exec .mrtest s = .next (completedWith s 0 false)) ∧
      (millerRabin s.n a = true → s.rounds.toNat ≤ s.round + 1 → exec .mrtest s = .next (completedWith s 1 true)) ∧
      (millerRabin s.n a = true → s.round + 1 < s.rounds.toNat → ∃ v, v < 2 ^ s.params.opw ∧
        exec .mrtest s = .next
          { s with r := v, freeCount := s.freeCount + 1, entropy := .requested, round := s.round + 1 }))

/-- A whole MRTEST that draws its bases, from its start: ROUNDS bases in [2, N-2] that all pass give R = RESULT = 1, and the
first base that fails ends the test with 0 and no further draw (43_primality.md R78, R79). The events are the model's
(log 10). -/
def Obligations.MrtestDrawnRun : Prop :=
  ∀ s : State, s.phase = .running .mrtest → s.basesrc = true → 4 < s.n → s.n % 2 = 1 → s.entropy = .none →
    s.round = 0 → 0 < s.rounds.toNat →
    (∀ bases : List Nat, bases.length = s.rounds.toNat → (∀ a ∈ bases, 2 ≤ a ∧ a ≤ s.n - 2) →
      (∀ a ∈ bases, millerRabin s.n a = true) →
      ∃ k, s.runEvents (drawEvents bases) = .next { completedWith s 1 true with freeCount := k }) ∧
    (∀ (passed : List Nat) (last : Nat), passed.length < s.rounds.toNat →
      (∀ a ∈ passed ++ [last], 2 ≤ a ∧ a ≤ s.n - 2) → (∀ a ∈ passed, millerRabin s.n a = true) →
      millerRabin s.n last = false →
      ∃ k, s.runEvents (drawEvents (passed ++ [last])) = .next { completedWith s 0 false with freeCount := k })

/-- Entropy starvation: while a request waits, no number of engine steps and of offers outside [2, N-2] changes anything, so BUSY
stays 1 (60_exceptions.md R100, 70_reset_and_hazards.md R116). That such an offer is ignored is the model's choice (log 11), and
that an internal event of a waiting engine changes nothing is its inference (log 17). -/
def Obligations.StarvedEngineTakesNoStep : Prop :=
  ∀ (s : State) (events : List Event), s.Inv → s.entropy = .requested →
    (∀ ev ∈ events, ev = .engine ∨ ev = .engineInternal ∨ ∃ v, ev = .entropy v ∧ (v < 2 ∨ s.n - 2 < v)) →
    s.runEvents events = .next s ∧ s.busy = true

/-- MODINV: its accept with its checks, and its completion with the inverse below N and RESULT = 1, or with R = 0 and RESULT = 0
when gcd(A mod N, N) is not 1 (44_modinv.md R82). -/
def Obligations.ModinvAcceptAndResult : Prop :=
  decode 0x00000006#32 = .ok .modinv ∧ ∀ s : State,
    (s.phase = .idle →
      exec .modinv s = .next
        (if s.len.toNat = 0 ∨ s.params.maxw < s.len.toNat then failedAs s 0x00000006#32 .len
         else if 2 ^ (32 * s.len.toNat) ≤ s.a ∨ 2 ^ (32 * s.len.toNat) ≤ s.n then failedAs s 0x00000006#32 .width
         else if s.n = 0 then failedAs s 0x00000006#32 .modzero
         else acceptedAs s 0x00000006#32 .modinv)) ∧
    (s.phase = .running .modinv → 0 < s.n →
      (Nat.gcd (s.a % s.n) s.n = 1 →
        ∃ v, v < s.n ∧ s.a % s.n * v % s.n = 1 % s.n ∧ exec .modinv s = .next (completedWith s v true)) ∧
      (Nat.gcd (s.a % s.n) s.n ≠ 1 → exec .modinv s = .next (completedWith s 0 false)))

/-- After MODINV: RESULT = 1 means R is the inverse, RESULT = 0 means a common factor, and R = 0 with RESULT = 1 happens only for
N = 1 (44_modinv.md R82, R83). -/
def Obligations.ModinvResultIsInverse : Prop :=
  ∀ s t : State, s.phase = .running .modinv → 0 < s.n → exec .modinv s = .next t →
    (t.result = true → s.a * t.r % s.n = 1 % s.n ∧ t.r < s.n) ∧
    (t.result = false → 1 < Nat.gcd s.a s.n ∧ t.r = 0) ∧
    (t.result = true → t.r = 0 → s.n = 1)

/-! ### Invariants and frames -/

/-- Reset meets the invariant, at P_OPW = 4096 and at every legal P_OPW (10_state.md R35, 00_scope.md R5). -/
def Obligations.ResetMeetsInvariant : Prop :=
  State.reset.Inv ∧ ∀ p : Params, p.wellFormed = true → (State.resetOf p).Inv

/-- Every step keeps the invariant: operands below 2^P_OPW, ERR = 0 exactly when ERRCODE = 0, a running command whose checks
pass with DONE and RESULT 0, and entropy requests only of a drawing MRTEST with answers in [2, N-2]. -/
def Obligations.StepKeepsInvariant : Prop :=
  ∀ s t : State, s.Inv → step s = .next t → t.Inv

/-- What no command changes: A, B, E, N, LEN, ROUNDS, IRQEN, BASESRC, the parameters, and the host port (its answer and the accesses
still to come, the model's own schedule of log 2); an accept leaves R; and an engine step leaves LASTCMD, ERR and ERRCODE (10_state.md R19, 40_command_lifecycle.md R63, R65, 60_exceptions.md R94). -/
def Obligations.CommandFrame : Prop :=
  ∀ (i : Instr) (s t : State), exec i s = .next t →
    t.a = s.a ∧ t.b = s.b ∧ t.e = s.e ∧ t.n = s.n ∧ t.len = s.len ∧ t.rounds = s.rounds ∧ t.irqen = s.irqen ∧
    t.basesrc = s.basesrc ∧ t.params = s.params ∧ t.schedule = s.schedule ∧ t.response = s.response ∧
    (s.phase = .idle → t.r = s.r ∧ t.freeCount = s.freeCount) ∧
    (∀ cur, s.phase = .running cur → t.lastCmd = s.lastCmd ∧ t.err = s.err ∧ t.errCode = s.errCode)

/-- Only host accesses and the reset input change A, B, E and N: engine steps and entropy answers leave them, and LEN, ROUNDS,
BASESRC, IRQEN and LASTCMD too (10_state.md R16, R19). -/
def Obligations.OnlyHostWritesOperands : Prop :=
  ∀ (s t : State) (ev : Event), s.handle ev = .next t → (∀ acc, ev ≠ .host acc) → ev ≠ .hardwareReset →
    t.a = s.a ∧ t.b = s.b ∧ t.e = s.e ∧ t.n = s.n ∧ t.len = s.len ∧ t.rounds = s.rounds ∧ t.basesrc = s.basesrc ∧
      t.irqen = s.irqen ∧ t.lastCmd = s.lastCmd

/-! ### Reset -/

/-- The reset values of the table, of the block from its hardware reset on, and after a hardware reset or a soft reset of any state
(10_state.md R35). -/
def Obligations.ResetValues : Prop :=
  (∀ s t : State, s.params.wellFormed = true →
    (t = State.resetOf s.params ∨ s.handle .hardwareReset = .next t ∨
      ∃ v : Word, v.getLsbD 31 = true ∧ s.handle (wr s.params 0x0008 v) = .next t) →
    (∀ x, t.op x = 0) ∧
    Config.idValue = 0x52534131#32 ∧
    configWord t.params = 0x01#8 ++ 0x10#8 ++ BitVec.ofNat 16 s.params.maxw ∧
    t.irqen = false ∧ t.basesrc = true ∧ t.lastCmd = 0x00000000#32 ∧
    t.busy = false ∧ t.done = false ∧ t.result = false ∧ t.err = false ∧ errCodeBits t.errCode = 0#4 ∧
    t.len.toNat = s.params.maxw ∧ t.rounds = 10#8 ∧ t.phase = .idle ∧ t.entropy = .none ∧ t.irq = false) ∧
  configWord Params.default = 0x01100080#32 ∧ State.reset.len = 128#16

/-- A write to CTRL with bit 31 = 1, in any state, resets the block in that step and is answered normally; the hardware reset has
the same effect; and no other host access stops a running command (70_reset_and_hazards.md R109). -/
def Obligations.SoftAndHardwareReset : Prop :=
  ∀ s : State,
    (∀ (acc : Access) (t : State), s.phase ≠ .idle → ¬ acc.isSoftReset s.params → s.handle (.host acc) = .next t →
      t.phase = s.phase ∧ t.entropy = s.entropy) ∧
    (∀ v : Word, v.getLsbD 31 = true →
      s.handle (wr s.params 0x0008 v) = .next
        { State.resetOf s.params with schedule := s.schedule, response := .written, freeCount := s.freeCount }) ∧
    s.handle .hardwareReset = .next
      { State.resetOf s.params with schedule := s.schedule, freeCount := s.freeCount }

/-! ### Control and status registers -/

/-- STATUS: its layout, the numbers of the ERRCODE field, its W1C write in any state, and ERR = 0 exactly when ERRCODE = 0: as the
register reads in every state in which they agree, as they do at reset, and as every step keeps it (10_state.md R28,
60_exceptions.md R94). -/
def Obligations.StatusRegister : Prop :=
  (errCodeBits .none = 0#4 ∧ errCodeBits .badop = 1#4 ∧ errCodeBits .busy = 2#4 ∧ errCodeBits .len = 3#4 ∧
    errCodeBits .width = 4#4 ∧ errCodeBits .modzero = 5#4 ∧ errCodeBits .evenmod = 6#4 ∧ errCodeBits .range = 7#4 ∧
    errCodeBits .rounds = 8#4 ∧ errCodeBits .wbusy = 9#4) ∧
  (∀ s : State, s.ErrAgrees → (s.statusWord.getLsbD 3 = false ↔ s.statusWord.extractLsb' 4 4 = 0#4)) ∧
  (∀ s : State,
    s.statusWord.getLsbD 0 = s.busy ∧ s.statusWord.getLsbD 1 = s.done ∧ s.statusWord.getLsbD 2 = s.result ∧
    s.statusWord.getLsbD 3 = s.err ∧ s.statusWord.extractLsb' 4 4 = errCodeBits s.errCode ∧
    s.statusWord.extractLsb' 8 24 = 0#24 ∧
    s.handle (rd s.params 0x0010) = .next { s with response := .data s.statusWord }) ∧
  (∀ (s : State) (v : Word),
    s.handle (wr s.params 0x0010 v) = .next
      { s with
        response := .written
        done := if v.getLsbD 1 then false else s.done
        err := if v.getLsbD 3 then false else s.err
        errCode := if v.getLsbD 3 then .none else s.errCode }) ∧
  (∀ p, (State.resetOf p).ErrAgrees) ∧
  (∀ s t : State, s.ErrAgrees → step s = .next t → t.ErrAgrees)

/-- CTRL: its layout, and a write without SRST: IRQEN always, BASESRC only while idle, nothing else; with SRST the whole block is
reset, and CTRL then reads its reset value 0x00000002 (10_state.md R26, R35). That the model's own schedule and counter stay is
log 14. -/
def Obligations.CtrlRegister : Prop :=
  ∀ (s : State) (v : Word),
    s.ctrlWord.getLsbD 0 = s.irqen ∧ s.ctrlWord.getLsbD 1 = s.basesrc ∧ s.ctrlWord.extractLsb' 2 30 = 0#30 ∧
    s.handle (rd s.params 0x0008) = .next { s with response := .data s.ctrlWord } ∧
    (v.getLsbD 31 = false → s.phase = .idle →
      s.handle (wr s.params 0x0008 v) = .next
        { s with response := .written, irqen := v.getLsbD 0, basesrc := v.getLsbD 1 }) ∧
    (v.getLsbD 31 = false → s.phase ≠ .idle →
      s.handle (wr s.params 0x0008 v) = .next { s with response := .written, irqen := v.getLsbD 0 }) ∧
    (v.getLsbD 31 = true → ∃ t, s.handle (wr s.params 0x0008 v) = .next t ∧
      t = { State.resetOf s.params with schedule := s.schedule, response := .written, freeCount := s.freeCount } ∧
      t.ctrlWord = 0x00000002#32)

/-- ID and CONFIG read as constants, CMD reads LASTCMD, and a write to ID or CONFIG is a bus error (10_state.md R24, R25, R27). -/
def Obligations.IdConfigAndCmdReads : Prop :=
  configWord Params.default = 0x01100080#32 ∧ ∀ s : State,
    s.handle (rd s.params 0x0000) = .next { s with response := .data 0x52534131#32 } ∧
    s.handle (rd s.params 0x0004) = .next
      { s with response := .data (0x01#8 ++ 0x10#8 ++ BitVec.ofNat 16 s.params.maxw) } ∧
    s.handle (rd s.params 0x000C) = .next { s with response := .data s.lastCmd } ∧
    ∀ v, s.handle (wr s.params 0x0000 v) = .next { s with response := .busError } ∧
      s.handle (wr s.params 0x0004 v) = .next { s with response := .busError }

/-- LEN and ROUNDS: reserved bits read 0 and are ignored on a write, every value of the field can be stored while idle, and an
illegal LEN makes every command but NOP fail with ERRCODE = LEN (10_state.md R23, R29, R30). -/
def Obligations.LenAndRoundsRegisters : Prop :=
  ∀ (s : State) (v : Word),
    s.handle (rd s.params 0x0014) = .next { s with response := .data (0#16 ++ s.len) } ∧
    s.handle (rd s.params 0x0018) = .next { s with response := .data (0#24 ++ s.rounds) } ∧
    (s.phase = .idle →
      s.handle (wr s.params 0x0014 v) = .next { s with response := .written, len := v.extractLsb' 0 16 } ∧
      s.handle (wr s.params 0x0018 v) = .next { s with response := .written, rounds := v.extractLsb' 0 8 }) ∧
    (s.phase = .idle → s.len.toNat = 0 ∨ s.params.maxw < s.len.toNat →
      ∀ i, i ≠ .nop → exec i s = .next (failedAs s (encode i) .len))

/-! ### The bus -/

/-- Bus errors: an access of an illegal width or alignment, to an unmapped offset, or a write to ID, CONFIG or the R window changes
nothing and is answered with a bus error, and no other access in the block's window is (20_memory.md R40; an access outside
the window is Obligations.OutsideWindowChangesNothing). -/
def Obligations.BusErrorsChangeNothing : Prop :=
  ∀ (s : State) (acc : Access) (off : Nat), acc.addr = s.params.base + off → off < 2 ^ 16 →
    (busErrorCase s acc off → s.handle (.host acc) = .next { s with response := .busError }) ∧
    (¬ busErrorCase s acc off → ∃ t, s.handle (.host acc) = .next t ∧ t.response ≠ .busError)

/-- Reads have no side effect: whatever its address, width and alignment, a read changes only the port's answer, and a read while idle
draws no unspecified word (20_memory.md R42). The counter of drawn words is the model's own (log 7). -/
def Obligations.ReadsChangeNothing : Prop :=
  ∀ (s : State) (acc : Access), acc.kind = .read →
    ∃ x k, s.handle (.host acc) = .next { s with response := x, freeCount := k } ∧ (s.phase = .idle → k = s.freeCount)

/-- Operand windows: a read of word j of X, an unspecified word for R while busy, a write of word j of A, B, E or N, dropped with WBUSY
while busy, and a bus error for a write to R (20_memory.md R38). The unspecified word is the free value of log 7. -/
def Obligations.OperandWindows : Prop :=
  ∀ (s : State) (x : OpReg) (j : Nat), j < s.params.maxw → s.params.maxw ≤ 1024 →
    (x ≠ .R ∨ s.phase = .idle →
      s.handle (rd s.params (windowBase x + 4 * j)) = .next
        { s with response := .data (BitVec.ofNat 32 (s.op x / 2 ^ (32 * j))) }) ∧
    (x = .R → s.phase ≠ .idle → ∃ w,
      s.handle (rd s.params (windowBase x + 4 * j)) = .next
        { s with response := .data w, freeCount := s.freeCount + 1 }) ∧
    (∀ v : Word,
      (x = .R → s.handle (wr s.params (windowBase x + 4 * j) v) = .next { s with response := .busError }) ∧
      (x ≠ .R → s.phase ≠ .idle →
        s.handle (wr s.params (windowBase x + 4 * j) v) = .next
          { s with response := .written, err := true, errCode := .wbusy }) ∧
      (x ≠ .R → s.phase = .idle → ∃ t, s.handle (wr s.params (windowBase x + 4 * j) v) = .next t ∧
        t = { s.setOperand x (t.op x) with response := .written } ∧
        operandWord (t.op x) j = v ∧ ∀ k, k ≠ j → operandWord (t.op x) k = operandWord (s.op x) k))

/-- An operand register is the sum of its words, word j is its bits 32j+31:32j, and writing a word changes only those 32 bits
(10_state.md R20). -/
def Obligations.OperandIsSumOfWords : Prop :=
  (∀ (s : State) (x : OpReg), s.OperandsFit →
    s.op x = ∑ j ∈ Finset.range s.params.maxw, (operandWord (s.op x) j).toNat * 2 ^ (32 * j)) ∧
  (∀ (x j : Nat), (operandWord x j).toNat = x / 2 ^ (32 * j) % 2 ^ 32) ∧
  (∀ (x j i : Nat) (v : Word), (withOperandWord x j v).testBit i =
    if 32 * j ≤ i ∧ i < 32 * j + 32 then v.getLsbD (i - 32 * j) else x.testBit i)

/-- Writes while busy: A, B, E, N, LEN and ROUNDS keep their values and WBUSY is raised with a normal response; CTRL updates IRQEN and
performs SRST but leaves BASESRC; STATUS acts normally; CMD is refused with BUSY (20_memory.md R43). -/
def Obligations.WritesWhileBusy : Prop :=
  ∀ (s : State) (v : Word), s.phase ≠ .idle →
    (∀ x j, x ≠ .R → j < s.params.maxw → s.params.maxw ≤ 1024 →
      s.handle (wr s.params (windowBase x + 4 * j) v) = .next
        { s with response := .written, err := true, errCode := .wbusy }) ∧
    s.handle (wr s.params 0x0014 v) = .next { s with response := .written, err := true, errCode := .wbusy } ∧
    s.handle (wr s.params 0x0018 v) = .next { s with response := .written, err := true, errCode := .wbusy } ∧
    (v.getLsbD 31 = false →
      s.handle (wr s.params 0x0008 v) = .next { s with response := .written, irqen := v.getLsbD 0 }) ∧
    (v.getLsbD 31 = true →
      s.handle (wr s.params 0x0008 v) = .next
        { State.resetOf s.params with schedule := s.schedule, response := .written, freeCount := s.freeCount }) ∧
    s.handle (wr s.params 0x0010 v) = .next (State.writeStatus { s with response := .written } v) ∧
    s.handle (wr s.params 0x000C v) = .next { s with response := .written, err := true, errCode := .busy }

/-- No host access but a soft reset disturbs a running command: what it reads, its progress and R stay (20_memory.md R43, R48,
10_state.md R33). -/
def Obligations.RunningCommandUndisturbed : Prop :=
  ∀ (s t : State) (acc : Access), s.phase ≠ .idle → ¬ acc.isSoftReset s.params → s.handle (.host acc) = .next t →
    t.a = s.a ∧ t.b = s.b ∧ t.e = s.e ∧ t.n = s.n ∧ t.r = s.r ∧ t.len = s.len ∧ t.rounds = s.rounds ∧
    t.basesrc = s.basesrc ∧ t.phase = s.phase ∧ t.round = s.round ∧ t.entropy = s.entropy ∧ t.lastCmd = s.lastCmd ∧
    t.result = s.result

/-- The result of a command that draws nothing does not depend on the internal steps, the entropy offers and the host accesses other than
a soft reset that come before its completion (40_command_lifecycle.md R64, 20_memory.md R48). -/
def Obligations.ResultIndependentOfTraffic : Prop :=
  ∀ (s : State) (cur : Instr) (events : List Event), s.phase = .running cur → cur ≠ .nop → drawsNothing s cur →
    (∀ ev ∈ events, ev = .engineInternal ∨ (∃ v, ev = .entropy v) ∨ ∃ acc, ev = .host acc ∧ ¬ acc.isSoftReset s.params) →
    ∃ t u v, exec cur s = .next t ∧ s.runEvents events = .next u ∧ exec cur u = .next v ∧
      v.r = t.r ∧ v.result = t.result ∧ v.phase = .idle ∧ v.done = true

/-- A command that draws nothing completes in one step when no other event is scheduled: the block is idle with DONE = 1
(40_command_lifecycle.md R64, 70_reset_and_hazards.md R118; that the engine moves then is the model's
choice, log 2, and that one step completes the command is log 9). -/
def Obligations.EngineCompletesUndrawnCommand : Prop :=
  ∀ (s : State) (cur : Instr), s.phase = .running cur → s.schedule = [] → drawsNothing s cur →
    ∃ t, step s = .next t ∧ t.phase = .idle ∧ t.done = true ∧ t.busy = false

/-! ### The interrupt -/

/-- The interrupt output is IRQEN AND DONE in every state (60_exceptions.md R97, 10_state.md R34). What raises it: a CTRL write that
sets IRQEN while DONE = 1, and, with IRQEN = 1, every completion: a NOP, an accept that fails its checks, an illegal command
word, and every engine step that ends in phase IDLE, so that a running command that draws nothing raises it. What lowers it: a
W1C of DONE, IRQEN <- 0 (which leaves DONE), an accept that starts a command, a soft reset and a hardware reset. A CMD write
refused with BUSY, and a write dropped with WBUSY, leave it. Nothing but these events changes it (the last two clauses). That an
undrawn command completes in one engine step is log 9. -/
def Obligations.InterruptLevel : Prop :=
  ∀ s : State,
    s.irq = (s.irqen && s.done) ∧
    (∀ v : Word, v.getLsbD 31 = false → v.getLsbD 0 = true →
      ∃ t, s.handle (wr s.params 0x0008 v) = .next t ∧ t.irq = s.done ∧ t.done = s.done) ∧
    (s.irqen = true →
      (s.phase = .idle → ∃ t, exec .nop s = .next t ∧ t.irq = true) ∧
      (∀ i, i ≠ .nop → s.phase = .idle → checksOf i s ≠ .none → ∃ t, exec i s = .next t ∧ t.irq = true) ∧
      (∀ w e, s.phase = .idle → decode w = .error e → ∃ t, s.presentCommand w = .next t ∧ t.irq = true) ∧
      (∀ cur t, s.phase = .running cur → exec cur s = .next t → t.phase = .idle → t.irq = true) ∧
      (∀ cur, s.phase = .running cur → drawsNothing s cur → ∃ t, exec cur s = .next t ∧ t.irq = true)) ∧
    (∀ v : Word, v.getLsbD 1 = true → ∃ t, s.handle (wr s.params 0x0010 v) = .next t ∧ t.irq = false) ∧
    (∀ v : Word, v.getLsbD 31 = false → v.getLsbD 0 = false →
      ∃ t, s.handle (wr s.params 0x0008 v) = .next t ∧ t.irq = false ∧ t.done = s.done) ∧
    (∀ i, i ≠ .nop → s.phase = .idle → checksOf i s = .none → ∃ t, exec i s = .next t ∧ t.irq = false) ∧
    (∀ v : Word, v.getLsbD 31 = true → ∃ t, s.handle (wr s.params 0x0008 v) = .next t ∧ t.irq = false) ∧
    (∃ t, s.handle .hardwareReset = .next t ∧ t.irq = false) ∧
    (∀ cur w, s.phase = .running cur → ∃ t, s.presentCommand w = .next t ∧ t.irq = s.irq) ∧
    (∀ v : Word, s.phase ≠ .idle →
      (∃ t, s.handle (wr s.params 0x0014 v) = .next t ∧ t.errCode = .wbusy ∧ t.irq = s.irq) ∧
      (∃ t, s.handle (wr s.params 0x0018 v) = .next t ∧ t.errCode = .wbusy ∧ t.irq = s.irq) ∧
      ∀ x j, x ≠ .R → j < s.params.maxw → s.params.maxw ≤ 1024 →
        ∃ t, s.handle (wr s.params (windowBase x + 4 * j) v) = .next t ∧ t.errCode = .wbusy ∧ t.irq = s.irq) ∧
    (∀ t ev, s.handle ev = .next t → s.irq = false → t.irq = true →
      (s.done = true ∧ ∃ v : Word, v.getLsbD 31 = false ∧ v.getLsbD 0 = true ∧ ev = wr s.params 0x0008 v) ∨
      (s.irqen = true ∧ s.phase = .idle ∧ ∃ w, ev = wr s.params 0x000C w) ∨
      (s.irqen = true ∧ s.phase ≠ .idle ∧ t.phase = .idle ∧ ev = .engine)) ∧
    (∀ t ev, s.handle ev = .next t → s.irq = true → t.irq = false →
      (∃ v : Word, v.getLsbD 1 = true ∧ ev = wr s.params 0x0010 v) ∨
      (∃ v : Word, (v.getLsbD 31 = true ∨ v.getLsbD 0 = false) ∧ ev = wr s.params 0x0008 v) ∨
      (s.phase = .idle ∧ ∃ i, i ≠ .nop ∧ checksOf i s = .none ∧ ev = cmd s.params i) ∨
      ev = .hardwareReset)

/-- No interrupt is raised until the host sets IRQEN (70_reset_and_hazards.md R110). -/
def Obligations.NoInterruptUntilEnabled : Prop :=
  ∀ (s t : State) (events : List Event), s.irqen = false →
    (∀ acc, Event.host acc ∈ events → ¬ acc.enablesIrq s.params) → s.runEvents events = .next t →
    t.irqen = false ∧ t.irq = false

/-! ### Host programs -/

/-- `ld X, V, L` loads V into X and changes nothing else (30_encoding.md R58). -/
def Obligations.LoadSequenceLoads : Prop :=
  ∀ (s : State) (x : OpReg) (v len : Nat), x ≠ .R → s.phase = .idle → 0 < len → len ≤ s.params.maxw →
    s.params.maxw ≤ 1024 → v < 2 ^ (32 * len) → s.op x < 2 ^ (32 * len) →
    s.runEvents (ld s.params x v len) = .next { s.setOperand x v with response := .written }

/-- `st L` reads the low 32*L bits of R and changes nothing (30_encoding.md R58). -/
def Obligations.StoreSequenceReadsR : Prop :=
  ∀ (s : State) (len : Nat), s.phase = .idle → len ≤ s.params.maxw → s.params.maxw ≤ 1024 →
    valueOfAnswers (s.answers (st s.params len)) = s.r % 2 ^ (32 * len) ∧
    ∃ x, s.runEvents (st s.params len) = .next { s with response := x }

/-- A whole `call(MODEXP)` on the bus, whatever the engine and the entropy source do between the host's accesses: the loads, LEN,
the command, any number of reads of STATUS while the engine takes internal steps, and then RESULT = 1 and
R = ((A mod N)^E) mod N of the values loaded (48_host_procedures.md R86, 42_modexp.md R73, 40_command_lifecycle.md R64). How the
other agents' events stand between the accesses is log 21, and that one engine step completes the command is log 9. -/
def Obligations.CallModexpOnTheBus : Prop :=
  ∀ (s : State) (v : OpReg → Nat) (before during after rest : Traffic), s.Inv → s.phase = .idle →
    let len := hostLen (max (v .A) (max (v .E) (v .N)))
    len ≤ s.params.maxw → v .N % 2 = 1 →
    quietTraffic (3 * s.params.maxw + 2) before → completingTraffic during → quietTraffic (1 + len) after →
    ∃ t, call s.params .modexp v s (before ++ during ++ after ++ rest) =
        .done (.ok (true, (v .A % v .N) ^ v .E % v .N)) t rest ∧
      t.r = (v .A % v .N) ^ v .E % v .N ∧ t.a = v .A ∧ t.e = v .E ∧ t.n = v .N ∧ t.b = s.b ∧ t.len.toNat = len ∧
      t.phase = .idle ∧ t.lastCmd = 0x00000003#32 ∧ t.statusWord = 0x00000006#32

/-- The program `modmul` leaves R = (A * B) mod N for the values of A and B before it ran, whatever the engine and the entropy
source do between the host's accesses; each `wait` reads STATUS any number of times (30_encoding.md R58, 41_montgomery.md R71,
40_command_lifecycle.md R64). How the other agents' events stand between the accesses is log 21, and that one engine step
completes a command is log 9. -/
def Obligations.ModmulProgramMultiplies : Prop :=
  ∀ (s : State) (start during1 move1 during2 move2 during3 rest : Traffic), s.Inv → s.phase = .idle →
    0 < s.len.toNat → s.len.toNat ≤ s.params.maxw → s.n % 2 = 1 → s.n < 2 ^ (32 * s.len.toNat) →
    s.a < s.n → s.b < s.n →
    quietTraffic 1 start → completingTraffic during1 → quietTraffic (2 * s.len.toNat + 1) move1 →
    completingTraffic during2 → quietTraffic (2 * s.len.toNat + 1) move2 → completingTraffic during3 →
    ∃ t, modmul s.params s (start ++ during1 ++ move1 ++ during2 ++ move2 ++ during3 ++ rest) =
        .done 0x00000006#32 t rest ∧
      t.r = s.a * s.b % s.n ∧ t.n = s.n ∧ t.len = s.len ∧ t.phase = .idle ∧ t.statusWord = 0x00000006#32

/-! ### Arithmetic -/

/-- Using MONTMUL and RSQ: conversion into and out of Montgomery form, the product in Montgomery form, and the plain product
(41_montgomery.md R71). -/
def Obligations.MontgomeryIdentities : Prop :=
  ∀ n len x y : Nat, n % 2 = 1 → x < n → y < n →
    montProduct x (montConstant n len) n len = x * radix len % n ∧
    (1 < n → montProduct (x * radix len % n) 1 n len = x) ∧
    montProduct (x * radix len % n) (y * radix len % n) n len = x * y * radix len % n ∧
    montProduct (montProduct x y n len) (montConstant n len) n len = x * y % n

/-- Word-serial Montgomery reduction gives the Montgomery product (41_montgomery.md R72, informative there). -/
def Obligations.CiosRefinesMontgomeryProduct : Prop :=
  ∀ a b n len : Nat, n % 2 = 1 → n < 2 ^ (32 * len) → a < n → b < n → cios a b n len = montProduct a b n len

/-- Binary exponentiation in Montgomery form gives MODEXP's value (42_modexp.md R74, informative there). -/
def Obligations.MontgomeryLadderRefinesModexp : Prop :=
  ∀ a e n len : Nat, n % 2 = 1 → montPow a e n len = (a % n) ^ e % n

/-- RSA round trip on the block: MODEXP with (m, e) and then with (c, d) gives m back (42_modexp.md R75). -/
def Obligations.RsaRoundTrip : Prop :=
  ∀ (p q e d m : Nat) (s t u v : State), p.Prime → q.Prime → p ≠ q → e * d % ((p - 1) * (q - 1)) = 1 →
    m < p * q → s.phase = .running .modexp → s.a = m → s.e = e → s.n = p * q → exec .modexp s = .next t →
    u.phase = .running .modexp → u.a = t.r → u.e = d → u.n = p * q → exec .modexp u = .next v → v.r = m

/-- A prime passes every round, so MRROUND and MRTEST answer 1 for every prime, under either base source and for every draw
(43_primality.md R80). -/
def Obligations.PrimeAlwaysPasses : Prop :=
  (∀ n a : Nat, n.Prime → millerRabin n a = true) ∧
  (∀ (s t : State), s.n.Prime → s.phase = .running .mrround → exec .mrround s = .next t → t.result = true ∧ t.r = 1) ∧
  (∀ (s t : State), s.n.Prime → s.phase = .running .mrtest → exec .mrtest s = .next t → t.phase = .idle →
    t.result = true ∧ t.r = 1)

/-! ### Host procedures -/

/-- Big-endian buffers and integers (20_memory.md R45): the k bytes of m read back as m, byte i carries its bits, and every buffer is the
bytes of its integer. -/
def Obligations.BigEndianBuffers : Prop :=
  (∀ k m : Nat, m < 256 ^ k → natOfBytes (bytesOfNat k m) = m) ∧
  (∀ l : List Byte, bytesOfNat l.length (natOfBytes l) = l) ∧
  (∀ k m i : Nat, i < k → (bytesOfNat k m)[i]? = some (BitVec.ofNat 8 (m / 2 ^ (8 * (k - 1 - i)))))

/-- Lengths and errors of encrypt and decrypt (48_host_procedures.md R90, R91, R92, R93): a message of more than k - 11 bytes and a
ciphertext that is not k bytes are refused, and a ciphertext has exactly k bytes. -/
def Obligations.CodecLengths : Prop :=
  ∀ (p : Params) (pub : PublicKey) (priv : PrivateKey) (l stream c : List Byte),
    (modulusBytes pub.n < l.length + 11 → encrypt p pub l stream = .err .messageTooLong) ∧
    (encrypt p pub l stream = .ok c → c.length = modulusBytes pub.n) ∧
    (l.length ≠ modulusBytes priv.pub.n → decrypt p priv l = .err .invalidCipherLength)

/-- What a recovered block gives: the data after the first zero byte from index 2 on, or why the block is malformed
(48_host_procedures.md R92). -/
def Obligations.RecoveredBlocks : Prop :=
  (∀ pad message : List Byte, (∀ x ∈ pad, x ≠ 0x00#8) → unpad (encryptionBlock pad message) = .ok message) ∧
  (∀ (b0 : Byte) (rest : List Byte), b0 ≠ 0x00#8 → unpad (b0 :: rest) = .err (.malformedBlock .leadingZero)) ∧
  unpad [0x00#8] = .err (.malformedBlock .blockType) ∧
  (∀ (b1 : Byte) (rest : List Byte), b1 ≠ 0x02#8 →
    unpad (0x00#8 :: b1 :: rest) = .err (.malformedBlock .blockType)) ∧
  (∀ body : List Byte, (∀ x ∈ body, x ≠ 0x00#8) →
    unpad (0x00#8 :: 0x02#8 :: body) = .err (.malformedBlock .missingTerminator))

/-- Key generation of too few bits: no bit length of 0 or less is accepted, and 1, 2 and 3 bits without seeds ask for a prime of fewer
than 2 bits (48_host_procedures.md R88, R89). -/
def Obligations.KeyGenerationRefusals : Prop :=
  ∀ (prm : Params) (bits : Int) (rnd : HostRandom),
    (∀ sp sq, bits ≤ 0 → generate prm bits sp sq rnd = .err .invalidParameter) ∧
    (1 ≤ bits → bits ≤ 3 → generate prm bits 0 0 rnd = .err .invalidParameter)

/-- Decryption undoes encryption for a key of two distinct primes (48_host_procedures.md R93). -/
def Obligations.DecryptUndoesEncrypt : Prop :=
  ∀ (prm : Params) (priv : PrivateKey) (message stream c : List Byte),
    priv.p.Prime → priv.q.Prime → priv.p ≠ priv.q → priv.pub.n = priv.p * priv.q →
    priv.pub.e * priv.d % ((priv.p - 1) * (priv.q - 1)) = 1 → hostLen (max priv.d priv.pub.n) ≤ prm.maxw →
    encrypt prm priv.pub message stream = .ok c → decrypt prm priv c = .ok message

/-- Every key that key generation returns has the asked bit length, distinct factors, an odd modulus, e = 65537 and an inverse d modulo
the totient (48_host_procedures.md R88, R93). -/
def Obligations.GeneratedKeysAreSound : Prop :=
  ∀ (prm : Params) (bits : Int) (sp sq : Nat) (rnd : HostRandom) (key : PrivateKey),
    generate prm bits sp sq rnd = .ok key →
    (bitLen key.pub.n : Int) = bits ∧ key.pub.n = key.p * key.q ∧ key.p ≠ key.q ∧ key.pub.n % 2 = 1 ∧
    key.pub.e = 65537 ∧
    (1 < (key.p - 1) * (key.q - 1) → key.d * 65537 % ((key.p - 1) * (key.q - 1)) = 1)

/-! ### Host programs on the bus, with every form of `wait` and `call` -/

/-- `call` of any command but NOP whose operands fit P_OPW, on the bus: when its checks pass and it draws nothing, the call gives
RESULT and R of the command on the values loaded, after any number of reads of STATUS; when a check fails, it stops with an
internal fault after two reads of STATUS, and R is unchanged (48_host_procedures.md R86, 40_command_lifecycle.md R64, R66). Larger
operands and NOP are left out because the spec leaves their calls open (log 22, log 23). How
the other agents' events stand between the accesses is log 21, and that one engine step completes the command is log 9. -/
def Obligations.CallOnTheBus : Prop :=
  ∀ (s : State) (i : Instr) (v : OpReg → Nat) (before rest : Traffic), s.Inv → s.phase = .idle → i ≠ .nop →
    (∀ x ∈ operandsRead i, v x < 2 ^ s.params.opw) →
    let len := hostLen (largestOperand i v)
    let loaded := loadedFor s i v len
    quietTraffic ((operandsRead i).length * s.params.maxw + 2) before →
    (checksOf i loaded = .none → drawsNothing loaded i →
      ∀ during after, completingTraffic during → quietTraffic (1 + len) after →
      ∃ t x k, exec i (acceptedAs loaded (encode i) i) = .next t ∧
        call s.params i v s (before ++ during ++ after ++ rest) =
          .done (.ok (t.result, t.r)) { t with response := x, freeCount := k } rest) ∧
    (checksOf i loaded ≠ .none → ∀ polls, quietTraffic 2 polls →
      ∃ x, call s.params i v s (before ++ polls ++ rest) =
        .done .internalFault { failedAs loaded (encode i) (checksOf i loaded) with response := x } rest)

/-- `call(MRTEST)` with BASESRC = 1 of an odd candidate of 5 or more, on the bus: `wait` reads STATUS through every round, however
the draws and the internal steps fall between its reads, and the call gives RESULT = R = 1 when ROUNDS bases in [2, N-2] all
pass, and 0 when a base fails (48_host_procedures.md R86, R88, 43_primality.md R78, R79). The events of the draws are log 10, and
how they stand between the accesses is log 21. ROUNDS and BASESRC are those that the block holds when the call starts (log 24). -/
def Obligations.CallMrtestDraws : Prop :=
  ∀ (s : State) (v : OpReg → Nat) (bases : List Nat) (before polls after rest : Traffic) (last : List Event), s.Inv →
    s.phase = .idle → s.basesrc = true → 0 < s.rounds.toNat → 4 < v .N → v .N % 2 = 1 → v .N < 2 ^ s.params.opw →
    let len := hostLen (v .N)
    quietTraffic (s.params.maxw + 2) before → quietTraffic (1 + len) after →
    (polls ++ [last]).flatten.filter (fun ev => decide (ev ≠ .engineInternal)) = drawEvents bases → Event.engine ∈ last →
    (∀ a ∈ bases, 2 ≤ a ∧ a ≤ v .N - 2) →
    (bases.length = s.rounds.toNat → (∀ a ∈ bases, millerRabin (v .N) a = true) →
      ∃ t, call s.params .mrtest v s (before ++ (polls ++ [last]) ++ after ++ rest) = .done (.ok (true, 1)) t rest ∧
        t.r = 1 ∧ t.n = v .N ∧ t.phase = .idle ∧ t.lastCmd = 0x00000005#32 ∧ t.statusWord = 0x00000006#32) ∧
    (∀ (passed : List Nat) (failed : Nat), bases = passed ++ [failed] → bases.length ≤ s.rounds.toNat →
      (∀ a ∈ passed, millerRabin (v .N) a = true) → millerRabin (v .N) failed = false →
      ∃ t, call s.params .mrtest v s (before ++ (polls ++ [last]) ++ after ++ rest) = .done (.ok (false, 0)) t rest ∧
        t.r = 0 ∧ t.n = v .N ∧ t.phase = .idle ∧ t.lastCmd = 0x00000005#32 ∧ t.statusWord = 0x00000002#32)

/-- `wait` reads STATUS until BUSY = 0 (30_encoding.md R58): of an idle block once; of a command that draws nothing until the engine
completes it, after any number of internal steps (40_command_lifecycle.md R64); of an engine that waits for entropy for ever, so
that it is still before its next read when the traffic ends (70_reset_and_hazards.md R116). The traffic is log 21, the one
completing step log 9, and the offers and steps of a waiting engine log 11 and log 17. -/
def Obligations.WaitPollsUntilIdle : Prop :=
  ∀ s : State, s.Inv →
    (s.phase = .idle → ∀ batch rest, quiet batch →
      wait s.params s (batch :: rest) = .done s.statusWord { s with response := .data s.statusWord } rest) ∧
    (∀ cur during rest, s.phase = .running cur → drawsNothing s cur → completingTraffic during →
      ∃ t k, exec cur s = .next t ∧ t.statusWord.getLsbD 0 = false ∧
        wait s.params s (during ++ rest) =
          .done t.statusWord { t with response := .data t.statusWord, freeCount := k } rest) ∧
    (∀ traffic : Traffic, s.entropy = .requested →
      (∀ batch ∈ traffic, ∀ ev ∈ batch,
        ev = .engine ∨ ev = .engineInternal ∨ ∃ v, ev = .entropy v ∧ (v < 2 ∨ s.n - 2 < v)) →
      ∃ x, wait s.params s traffic = .pending { s with response := x })

/-- The programs `tomont` and `frommont`: R = (A * RM) mod N, and R = (A * RM^-1) mod N, that is the value below N whose product with
RM is A (30_encoding.md R58), whatever the engine and the entropy source do between the host's accesses (log 21); that one engine
step completes a command is log 9. -/
def Obligations.TomontAndFrommont : Prop :=
  ∀ (s : State) (start during1 move during2 rest : Traffic), s.Inv → s.phase = .idle →
    0 < s.len.toNat → s.len.toNat ≤ s.params.maxw → s.n % 2 = 1 → s.n < 2 ^ (32 * s.len.toNat) →
    s.a < s.n → s.b < 2 ^ (32 * s.len.toNat) → completingTraffic during1 →
    (quietTraffic 1 start → quietTraffic (2 * s.len.toNat + 1) move → completingTraffic during2 →
      ∃ t, tomont s.params s (start ++ during1 ++ move ++ during2 ++ rest) = .done 0x00000006#32 t rest ∧
        t.r = s.a * 2 ^ (32 * s.len.toNat) % s.n ∧ t.a = s.a ∧ t.n = s.n ∧ t.len = s.len ∧ t.phase = .idle ∧
        t.statusWord = 0x00000006#32) ∧
    (1 < s.n → quietTraffic (s.len.toNat + 1) start →
      ∃ t, frommont s.params s (start ++ during1 ++ rest) = .done 0x00000006#32 t rest ∧
        t.r < s.n ∧ t.r * 2 ^ (32 * s.len.toNat) % s.n = s.a ∧ t.a = s.a ∧ t.b = 1 ∧ t.n = s.n ∧ t.len = s.len ∧
        t.phase = .idle ∧ t.statusWord = 0x00000006#32)

/-! ### Outside the window -/

/-- An access outside the 2^16 bytes from P_BASE, a read or a write of any width, leaves the block as it was: it does not reach it
(20_memory.md R36, 00_scope.md R7). That the port's answer is then `notSelected` is the model's choice (log 6). -/
def Obligations.OutsideWindowChangesNothing : Prop :=
  ∀ (s : State) (acc : Access), acc.addr < s.params.base ∨ s.params.base + 2 ^ 16 ≤ acc.addr →
    s.handle (.host acc) = .next { s with response := .notSelected }
end

