-- ==== Sys2Proof/Laws/Arith.lean ====
section
/-! SUPPORT. One lemma for each arithmetic function: it computes the value the spec's formula gives. -/

namespace Sys2Proof.Machine

/-! ### bitLen -/

theorem bitLen_le_iff (v k : Nat) : bitLen v ≤ k ↔ v < 2 ^ k := by
  unfold bitLen
  split
  · subst v; simp
  · rename_i hv
    rw [Nat.succ_le_iff, Nat.log2_lt hv]

theorem lt_two_pow_bitLen (v : Nat) : v < 2 ^ bitLen v := (bitLen_le_iff v _).1 le_rfl

@[simp] theorem bitLen_zero : bitLen 0 = 0 := rfl

/-! ### The modular power (42_modexp.md R73) -/

theorem mod_two_pow_succ_of_testBit (e k : Nat) :
    e % 2 ^ (k + 1) = e % 2 ^ k + (if e.testBit k then 2 ^ k else 0) := by
  rw [pow_succ, Nat.mod_mul, Nat.testBit_eq_decide_div_mod_eq]
  rcases Nat.mod_two_eq_zero_or_one (e / 2 ^ k) with h | h <;> simp [h]

theorem powBits_mod (x e n k y : Nat) :
    powBits x e n k y % n = y ^ 2 ^ k * x ^ (e % 2 ^ k) % n := by
  induction k generalizing y with
  | zero => simp [powBits, Nat.mod_one]
  | succ k ih =>
    rw [powBits, ih, mod_two_pow_succ_of_testBit e k]
    split
    · have h : (y * y % n * x % n) ^ 2 ^ k * x ^ (e % 2 ^ k) ≡ (y * y * x) ^ 2 ^ k * x ^ (e % 2 ^ k) [MOD n] :=
        (((Nat.mod_modEq _ n).trans ((Nat.mod_modEq _ n).mul_right x)).pow _).mul_right _
      exact h.trans (by rw [show (y * y * x) ^ 2 ^ k * x ^ (e % 2 ^ k)
        = y ^ 2 ^ (k + 1) * x ^ (e % 2 ^ k + 2 ^ k) by ring])
    · have h : (y * y % n) ^ 2 ^ k * x ^ (e % 2 ^ k) ≡ (y * y) ^ 2 ^ k * x ^ (e % 2 ^ k) [MOD n] :=
        ((Nat.mod_modEq _ n).pow _).mul_right _
      exact h.trans (by rw [show (y * y) ^ 2 ^ k * x ^ (e % 2 ^ k)
        = y ^ 2 ^ (k + 1) * x ^ (e % 2 ^ k + 0) by ring])

theorem powBits_lt (x e n k y : Nat) (hy : y < n) : powBits x e n k y < n := by
  have hn : 0 < n := by omega
  induction k generalizing y with
  | zero => simpa [powBits] using hy
  | succ k ih =>
    rw [powBits]
    split <;> exact ih _ (Nat.mod_lt _ hn)

/-- `powMod` is the spec's `((a mod n)^e) mod n` for `n >= 1` (42_modexp.md R73). -/
theorem powMod_eq (a e n : Nat) (hn : 0 < n) : powMod a e n = (a % n) ^ e % n := by
  have hlt := powBits_lt (a % n) e n (bitLen e) (1 % n) (Nat.mod_lt _ hn)
  have h := powBits_mod (a % n) e n (bitLen e) (1 % n)
  rw [Nat.mod_eq_of_lt hlt, Nat.mod_eq_of_lt (lt_two_pow_bitLen e)] at h
  have h1 : (1 % n) ^ 2 ^ bitLen e * (a % n) ^ e ≡ 1 ^ 2 ^ bitLen e * (a % n) ^ e [MOD n] :=
    ((Nat.mod_modEq 1 n).pow _).mul_right _
  rw [powMod, h, h1, one_pow, one_mul]

theorem powMod_lt (a e n : Nat) (hn : 0 < n) : powMod a e n < n := by
  rw [powMod_eq a e n hn]; exact Nat.mod_lt _ hn

/-! ### The modular inverse (00_scope.md R10, 44_modinv.md R82, R84) -/

/-- The next coefficient is the previous one minus the quotient's multiple of the current one, modulo `n`. -/
theorem nextCoefficient_modEq (n t0 m : Nat) (hn : 0 < n) : (t0 + (n - m % n)) % n + m ≡ t0 [MOD n] := by
  have hm : m % n < n := Nat.mod_lt _ hn
  calc (t0 + (n - m % n)) % n + m ≡ (t0 + (n - m % n)) + m % n [MOD n] :=
        (Nat.mod_modEq _ n).add (Nat.mod_modEq m n).symm
    _ = t0 + n := by omega
    _ ≡ t0 [MOD n] := by simp [Nat.ModEq]

/-- The loop keeps `r0 ≡ t0 * a` and `r1 ≡ t1 * a` modulo `n`, so it ends with a multiple of `a` that is the gcd. -/
theorem euclid_modEq (a n : Nat) (hn : 0 < n) :
    ∀ fuel r0 r1 t0 t1 : Nat, r1 < fuel → t0 * a ≡ r0 [MOD n] → t1 * a ≡ r1 [MOD n] →
      euclid n fuel r0 r1 t0 t1 * a ≡ Nat.gcd r0 r1 [MOD n] := by
  intro fuel
  induction fuel with
  | zero => intro r0 r1 t0 t1 h; omega
  | succ fuel ih =>
    intro r0 r1 t0 t1 hf h0 h1
    rw [euclid]
    split
    · rename_i hz
      subst hz
      simpa using h0
    · rename_i hz
      have hpos : 0 < r1 := Nat.pos_of_ne_zero hz
      have hlt : r0 % r1 < r1 := Nat.mod_lt _ hpos
      have hgcd : Nat.gcd r1 (r0 % r1) = Nat.gcd r0 r1 := by
        rw [Nat.gcd_comm r1, ← Nat.gcd_rec, Nat.gcd_comm]
      rw [← hgcd]
      refine ih r1 (r0 % r1) t1 _ (by omega) h1 ?_
      refine Nat.ModEq.add_right_cancel (h1.mul_left (r0 / r1)) ?_
      calc (t0 + (n - r0 / r1 * t1 % n)) % n * a + r0 / r1 * (t1 * a)
          = ((t0 + (n - r0 / r1 * t1 % n)) % n + r0 / r1 * t1) * a := by ring
        _ ≡ t0 * a [MOD n] := (nextCoefficient_modEq n t0 (r0 / r1 * t1) hn).mul_right a
        _ ≡ r0 [MOD n] := h0
        _ = r0 % r1 + r0 / r1 * r1 := by rw [Nat.mul_comm]; exact (Nat.mod_add_div r0 r1).symm

/-- For `n >= 1`, `inverseMod a n * a` is congruent to `gcd(a mod n, n)`. -/
theorem inverseMod_mul_modEq_gcd (a n : Nat) (hn : 0 < n) :
    inverseMod a n * a ≡ Nat.gcd (a % n) n [MOD n] := by
  have h := euclid_modEq (a % n) n hn (a % n + 1) n (a % n) 0 1 (by omega)
    (by simp [Nat.ModEq]) (by simp [Nat.ModEq])
  rw [Nat.gcd_comm] at h
  exact (((Nat.mod_modEq _ n).mul (Nat.mod_modEq a n).symm)).trans h

theorem inverseMod_lt (a n : Nat) (hn : 0 < n) : inverseMod a n < n := Nat.mod_lt _ hn

/-- `inverseMod` is an inverse where one exists (00_scope.md R10). -/
theorem mul_inverseMod (a n : Nat) (hn : 0 < n) (h : Nat.gcd (a % n) n = 1) :
    a * inverseMod a n % n = 1 % n := by
  have := inverseMod_mul_modEq_gcd a n hn
  rw [h] at this
  rw [Nat.mul_comm]; exact this

/-- An inverse below `n` is unique (00_scope.md R10). -/
theorem inverse_unique (a n x y : Nat) (hx : x < n) (hy : y < n) (hax : a * x % n = 1 % n)
    (hay : a * y % n = 1 % n) : x = y := by
  have hx' : a * x ≡ 1 [MOD n] := hax
  have hy' : a * y ≡ 1 [MOD n] := hay
  have h : x ≡ y [MOD n] := by
    calc x = x * 1 := (Nat.mul_one x).symm
      _ ≡ x * (a * y) [MOD n] := hy'.symm.mul_left x
      _ = a * x * y := by ring
      _ ≡ 1 * y [MOD n] := hx'.mul_right y
      _ = y := Nat.one_mul y
  exact Nat.ModEq.eq_of_lt_of_lt h hx hy

theorem inverseMod_eq (a n x : Nat) (hn : 0 < n) (h : Nat.gcd (a % n) n = 1) (hx : x < n)
    (hax : a * x % n = 1 % n) : inverseMod a n = x :=
  inverse_unique a n _ x (inverseMod_lt a n hn) hx (mul_inverseMod a n hn h) hax

theorem gcd_mod_left (a n : Nat) : Nat.gcd (a % n) n = Nat.gcd a n := by
  rw [Nat.gcd_comm a n, Nat.gcd_rec n a]

/-- What `modInv` answers (44_modinv.md R82). -/
theorem modInv_some_iff (a n v : Nat) (hn : 0 < n) :
    modInv a n = some v ↔ v < n ∧ a * v % n = 1 % n := by
  unfold modInv
  constructor
  · intro h
    split at h
    · rename_i hg
      cases h
      exact ⟨inverseMod_lt a n hn, mul_inverseMod a n hn hg⟩
    · cases h
  · rintro ⟨hv, hav⟩
    have hg : Nat.gcd a n = 1 := by
      have hav' : a * v ≡ 1 [MOD n] := hav
      have := hav'.gcd_eq
      rw [Nat.gcd_one_left] at this
      exact Nat.Coprime.coprime_mul_right this
    rw [← gcd_mod_left] at hg
    rw [if_pos hg, inverseMod_eq a n v hn hg hv hav]

theorem modInv_none_iff (a n : Nat) : modInv a n = none ↔ Nat.gcd a n ≠ 1 := by
  unfold modInv
  rw [← gcd_mod_left a n]
  split <;> simp [*]

/-! ### The Montgomery product (41_montgomery.md R68, R69) -/

theorem gcd_radix_of_odd (n len : Nat) (h : n % 2 = 1) : Nat.gcd (radix len % n) n = 1 := by
  rw [gcd_mod_left, radix]
  exact Nat.Coprime.pow_left _ ((Nat.coprime_two_left).2 (Nat.odd_iff.2 h))

theorem montProduct_lt (a b n len : Nat) (hn : 0 < n) : montProduct a b n len < n := Nat.mod_lt _ hn

/-- The Montgomery product times the radix is the plain product modulo an odd `n` (41_montgomery.md R69). -/
theorem montProduct_mul_radix (a b n len : Nat) (h : n % 2 = 1) :
    montProduct a b n len * radix len % n = a * b % n := by
  have hn : 0 < n := by omega
  have hinv : radix len * inverseMod (radix len) n ≡ 1 [MOD n] :=
    mul_inverseMod (radix len) n hn (gcd_radix_of_odd n len h)
  have : montProduct a b n len * radix len ≡ a * b [MOD n] := by
    calc montProduct a b n len * radix len
        ≡ a * b * inverseMod (radix len) n * radix len [MOD n] := (Nat.mod_modEq _ n).mul_right _
      _ = a * b * (radix len * inverseMod (radix len) n) := by ring
      _ ≡ a * b * 1 [MOD n] := hinv.mul_left _
      _ = a * b := Nat.mul_one _
  exact this

/-! ### Miller-Rabin pieces (43_primality.md R76) -/

/-- With enough fuel, `splitTwos` writes `d` as an odd number times a power of two. -/
theorem splitTwos_spec : ∀ fuel d s : Nat, 0 < d → d < 2 ^ fuel →
    (splitTwos fuel d s).1 % 2 = 1 ∧ s ≤ (splitTwos fuel d s).2 ∧
      (splitTwos fuel d s).1 * 2 ^ ((splitTwos fuel d s).2 - s) = d := by
  intro fuel
  induction fuel with
  | zero => intro d s h0 h1; simp at h1; omega
  | succ fuel ih =>
    intro d s h0 h1
    rw [splitTwos]
    split
    · rename_i he
      obtain ⟨hodd, hle, heq⟩ := ih (d / 2) (s + 1) (by omega) (by rw [pow_succ] at h1; omega)
      refine ⟨hodd, by omega, ?_⟩
      have hs : (splitTwos fuel (d / 2) (s + 1)).2 - s = ((splitTwos fuel (d / 2) (s + 1)).2 - (s + 1)) + 1 := by
        omega
      rw [hs, pow_succ, ← Nat.mul_assoc, heq]
      omega
    · rename_i he
      exact ⟨by omega, le_rfl, by simp⟩

/-- `squaresReachMinusOne` says that one of the squares `x^(2^1)` to `x^(2^k)` is `n - 1` modulo `n`. -/
theorem squaresReachMinusOne_iff (n : Nat) (k x : Nat) :
    squaresReachMinusOne n k x = true ↔ ∃ j, 1 ≤ j ∧ j ≤ k ∧ x ^ 2 ^ j % n = n - 1 := by
  induction k generalizing x with
  | zero => simp [squaresReachMinusOne]
  | succ k ih =>
    rw [squaresReachMinusOne]
    split
    · rename_i h
      exact ⟨fun _ => ⟨1, le_rfl, by omega, by rw [pow_one, sq, h]⟩, fun _ => rfl⟩
    · rename_i h
      rw [ih]
      have hpow : ∀ j, (x * x % n) ^ 2 ^ j % n = x ^ 2 ^ (j + 1) % n := by
        intro j
        rw [← Nat.pow_mod, ← sq, ← pow_mul, ← pow_succ']
      constructor
      · rintro ⟨j, h1, h2, h3⟩
        exact ⟨j + 1, by omega, by omega, by rw [← hpow, h3]⟩
      · rintro ⟨j, h1, h2, h3⟩
        rcases j with _ | _ | j
        · omega
        · simp only [zero_add, pow_one, sq] at h3
          exact absurd h3 h
        · exact ⟨j + 1, by omega, by omega, by rw [hpow, h3]⟩

theorem trivialVerdict_eq_none_iff (n : Nat) : trivialVerdict n = none ↔ 4 < n ∧ n % 2 = 1 := by
  unfold trivialVerdict
  split_ifs <;> simp <;> omega

theorem trivialVerdict_eq_some_iff (n : Nat) (f : Bool) :
    trivialVerdict n = some f ↔ (n < 4 ∨ n % 2 = 0) ∧ (f = true ↔ n = 2 ∨ n = 3) := by
  unfold trivialVerdict
  split_ifs <;> cases f <;> simp <;> omega

/-- The rounds pass when every one of them does (43_primality.md R79). -/
theorem roundsPass_iff (n : Nat) (bases : List Nat) :
    roundsPass n bases = true ↔ ∀ a ∈ bases, millerRabin n a = true := by
  induction bases with
  | nil => simp [roundsPass]
  | cons a rest ih => rw [roundsPass]; split <;> simp_all

@[simp] theorem flagValue_true : flagValue true = 1 := rfl
@[simp] theorem flagValue_false : flagValue false = 0 := rfl

end Sys2Proof.Machine
end

