-- ==== Sys2Proof/Laws/State.lean ====
section
/-! SUPPORT. What each named update of State leaves in each field, one lemma per field, true by rfl. -/

namespace Sys2Proof.Machine

variable (s : State)

/-! ### The reset state (10_state.md R35) -/

@[simp] theorem State.resetOf_params (p : Params) : (State.resetOf p).params = p := rfl
@[simp] theorem State.resetOf_a (p : Params) : (State.resetOf p).a = 0 := rfl
@[simp] theorem State.resetOf_b (p : Params) : (State.resetOf p).b = 0 := rfl
@[simp] theorem State.resetOf_e (p : Params) : (State.resetOf p).e = 0 := rfl
@[simp] theorem State.resetOf_n (p : Params) : (State.resetOf p).n = 0 := rfl
@[simp] theorem State.resetOf_r (p : Params) : (State.resetOf p).r = 0 := rfl
@[simp] theorem State.resetOf_irqen (p : Params) : (State.resetOf p).irqen = false := rfl
@[simp] theorem State.resetOf_basesrc (p : Params) : (State.resetOf p).basesrc = true := rfl
@[simp] theorem State.resetOf_lastCmd (p : Params) : (State.resetOf p).lastCmd = 0x00000000#32 := rfl
@[simp] theorem State.resetOf_done (p : Params) : (State.resetOf p).done = false := rfl
@[simp] theorem State.resetOf_result (p : Params) : (State.resetOf p).result = false := rfl
@[simp] theorem State.resetOf_err (p : Params) : (State.resetOf p).err = false := rfl
@[simp] theorem State.resetOf_errCode (p : Params) : (State.resetOf p).errCode = .none := rfl
@[simp] theorem State.resetOf_len (p : Params) : (State.resetOf p).len = BitVec.ofNat 16 p.maxw := rfl
@[simp] theorem State.resetOf_rounds (p : Params) : (State.resetOf p).rounds = 10#8 := rfl
@[simp] theorem State.resetOf_phase (p : Params) : (State.resetOf p).phase = .idle := rfl
@[simp] theorem State.resetOf_round (p : Params) : (State.resetOf p).round = 0 := rfl
@[simp] theorem State.resetOf_entropy (p : Params) : (State.resetOf p).entropy = .none := rfl
@[simp] theorem State.resetOf_schedule (p : Params) : (State.resetOf p).schedule = [] := rfl
@[simp] theorem State.resetOf_response (p : Params) : (State.resetOf p).response = .none := rfl
@[simp] theorem State.resetOf_freeCount (p : Params) : (State.resetOf p).freeCount = 0 := rfl

/-! ### State.setErr -/

@[simp] theorem State.setErr_params (c : ErrCode) : (s.setErr c).params = s.params := rfl
@[simp] theorem State.setErr_a (c : ErrCode) : (s.setErr c).a = s.a := rfl
@[simp] theorem State.setErr_b (c : ErrCode) : (s.setErr c).b = s.b := rfl
@[simp] theorem State.setErr_e (c : ErrCode) : (s.setErr c).e = s.e := rfl
@[simp] theorem State.setErr_n (c : ErrCode) : (s.setErr c).n = s.n := rfl
@[simp] theorem State.setErr_r (c : ErrCode) : (s.setErr c).r = s.r := rfl
@[simp] theorem State.setErr_irqen (c : ErrCode) : (s.setErr c).irqen = s.irqen := rfl
@[simp] theorem State.setErr_basesrc (c : ErrCode) : (s.setErr c).basesrc = s.basesrc := rfl
@[simp] theorem State.setErr_lastCmd (c : ErrCode) : (s.setErr c).lastCmd = s.lastCmd := rfl
@[simp] theorem State.setErr_done (c : ErrCode) : (s.setErr c).done = s.done := rfl
@[simp] theorem State.setErr_result (c : ErrCode) : (s.setErr c).result = s.result := rfl
@[simp] theorem State.setErr_err (c : ErrCode) : (s.setErr c).err = true := rfl
@[simp] theorem State.setErr_errCode (c : ErrCode) : (s.setErr c).errCode = c := rfl
@[simp] theorem State.setErr_len (c : ErrCode) : (s.setErr c).len = s.len := rfl
@[simp] theorem State.setErr_rounds (c : ErrCode) : (s.setErr c).rounds = s.rounds := rfl
@[simp] theorem State.setErr_phase (c : ErrCode) : (s.setErr c).phase = s.phase := rfl
@[simp] theorem State.setErr_round (c : ErrCode) : (s.setErr c).round = s.round := rfl
@[simp] theorem State.setErr_entropy (c : ErrCode) : (s.setErr c).entropy = s.entropy := rfl
@[simp] theorem State.setErr_schedule (c : ErrCode) : (s.setErr c).schedule = s.schedule := rfl
@[simp] theorem State.setErr_response (c : ErrCode) : (s.setErr c).response = s.response := rfl
@[simp] theorem State.setErr_freeCount (c : ErrCode) : (s.setErr c).freeCount = s.freeCount := rfl

/-! ### State.writeStatus -/

@[simp] theorem State.writeStatus_params (v : Word) : (s.writeStatus v).params = s.params := rfl
@[simp] theorem State.writeStatus_a (v : Word) : (s.writeStatus v).a = s.a := rfl
@[simp] theorem State.writeStatus_b (v : Word) : (s.writeStatus v).b = s.b := rfl
@[simp] theorem State.writeStatus_e (v : Word) : (s.writeStatus v).e = s.e := rfl
@[simp] theorem State.writeStatus_n (v : Word) : (s.writeStatus v).n = s.n := rfl
@[simp] theorem State.writeStatus_r (v : Word) : (s.writeStatus v).r = s.r := rfl
@[simp] theorem State.writeStatus_irqen (v : Word) : (s.writeStatus v).irqen = s.irqen := rfl
@[simp] theorem State.writeStatus_basesrc (v : Word) : (s.writeStatus v).basesrc = s.basesrc := rfl
@[simp] theorem State.writeStatus_lastCmd (v : Word) : (s.writeStatus v).lastCmd = s.lastCmd := rfl
@[simp] theorem State.writeStatus_done (v : Word) : (s.writeStatus v).done = (s.done && !v.getLsbD 1) := rfl
@[simp] theorem State.writeStatus_result (v : Word) : (s.writeStatus v).result = s.result := rfl
@[simp] theorem State.writeStatus_err (v : Word) : (s.writeStatus v).err = (s.err && !v.getLsbD 3) := rfl
@[simp] theorem State.writeStatus_errCode (v : Word) : (s.writeStatus v).errCode = if v.getLsbD 3 then .none else s.errCode := rfl
@[simp] theorem State.writeStatus_len (v : Word) : (s.writeStatus v).len = s.len := rfl
@[simp] theorem State.writeStatus_rounds (v : Word) : (s.writeStatus v).rounds = s.rounds := rfl
@[simp] theorem State.writeStatus_phase (v : Word) : (s.writeStatus v).phase = s.phase := rfl
@[simp] theorem State.writeStatus_round (v : Word) : (s.writeStatus v).round = s.round := rfl
@[simp] theorem State.writeStatus_entropy (v : Word) : (s.writeStatus v).entropy = s.entropy := rfl
@[simp] theorem State.writeStatus_schedule (v : Word) : (s.writeStatus v).schedule = s.schedule := rfl
@[simp] theorem State.writeStatus_response (v : Word) : (s.writeStatus v).response = s.response := rfl
@[simp] theorem State.writeStatus_freeCount (v : Word) : (s.writeStatus v).freeCount = s.freeCount := rfl

/-! ### State.clearFlags -/

@[simp] theorem State.clearFlags_params : s.clearFlags.params = s.params := rfl
@[simp] theorem State.clearFlags_a : s.clearFlags.a = s.a := rfl
@[simp] theorem State.clearFlags_b : s.clearFlags.b = s.b := rfl
@[simp] theorem State.clearFlags_e : s.clearFlags.e = s.e := rfl
@[simp] theorem State.clearFlags_n : s.clearFlags.n = s.n := rfl
@[simp] theorem State.clearFlags_r : s.clearFlags.r = s.r := rfl
@[simp] theorem State.clearFlags_irqen : s.clearFlags.irqen = s.irqen := rfl
@[simp] theorem State.clearFlags_basesrc : s.clearFlags.basesrc = s.basesrc := rfl
@[simp] theorem State.clearFlags_lastCmd : s.clearFlags.lastCmd = s.lastCmd := rfl
@[simp] theorem State.clearFlags_done : s.clearFlags.done = false := rfl
@[simp] theorem State.clearFlags_result : s.clearFlags.result = false := rfl
@[simp] theorem State.clearFlags_err : s.clearFlags.err = false := rfl
@[simp] theorem State.clearFlags_errCode : s.clearFlags.errCode = .none := rfl
@[simp] theorem State.clearFlags_len : s.clearFlags.len = s.len := rfl
@[simp] theorem State.clearFlags_rounds : s.clearFlags.rounds = s.rounds := rfl
@[simp] theorem State.clearFlags_phase : s.clearFlags.phase = s.phase := rfl
@[simp] theorem State.clearFlags_round : s.clearFlags.round = s.round := rfl
@[simp] theorem State.clearFlags_entropy : s.clearFlags.entropy = s.entropy := rfl
@[simp] theorem State.clearFlags_schedule : s.clearFlags.schedule = s.schedule := rfl
@[simp] theorem State.clearFlags_response : s.clearFlags.response = s.response := rfl
@[simp] theorem State.clearFlags_freeCount : s.clearFlags.freeCount = s.freeCount := rfl

/-! ### State.beginAccept -/

@[simp] theorem State.beginAccept_params (w : Word) : (s.beginAccept w).params = s.params := rfl
@[simp] theorem State.beginAccept_a (w : Word) : (s.beginAccept w).a = s.a := rfl
@[simp] theorem State.beginAccept_b (w : Word) : (s.beginAccept w).b = s.b := rfl
@[simp] theorem State.beginAccept_e (w : Word) : (s.beginAccept w).e = s.e := rfl
@[simp] theorem State.beginAccept_n (w : Word) : (s.beginAccept w).n = s.n := rfl
@[simp] theorem State.beginAccept_r (w : Word) : (s.beginAccept w).r = s.r := rfl
@[simp] theorem State.beginAccept_irqen (w : Word) : (s.beginAccept w).irqen = s.irqen := rfl
@[simp] theorem State.beginAccept_basesrc (w : Word) : (s.beginAccept w).basesrc = s.basesrc := rfl
@[simp] theorem State.beginAccept_lastCmd (w : Word) : (s.beginAccept w).lastCmd = w := rfl
@[simp] theorem State.beginAccept_done (w : Word) : (s.beginAccept w).done = false := rfl
@[simp] theorem State.beginAccept_result (w : Word) : (s.beginAccept w).result = false := rfl
@[simp] theorem State.beginAccept_err (w : Word) : (s.beginAccept w).err = false := rfl
@[simp] theorem State.beginAccept_errCode (w : Word) : (s.beginAccept w).errCode = .none := rfl
@[simp] theorem State.beginAccept_len (w : Word) : (s.beginAccept w).len = s.len := rfl
@[simp] theorem State.beginAccept_rounds (w : Word) : (s.beginAccept w).rounds = s.rounds := rfl
@[simp] theorem State.beginAccept_phase (w : Word) : (s.beginAccept w).phase = s.phase := rfl
@[simp] theorem State.beginAccept_round (w : Word) : (s.beginAccept w).round = s.round := rfl
@[simp] theorem State.beginAccept_entropy (w : Word) : (s.beginAccept w).entropy = s.entropy := rfl
@[simp] theorem State.beginAccept_schedule (w : Word) : (s.beginAccept w).schedule = s.schedule := rfl
@[simp] theorem State.beginAccept_response (w : Word) : (s.beginAccept w).response = s.response := rfl
@[simp] theorem State.beginAccept_freeCount (w : Word) : (s.beginAccept w).freeCount = s.freeCount := rfl

/-! ### State.raiseError -/

@[simp] theorem State.raiseError_params (c : ErrCode) : (s.raiseError c).params = s.params := rfl
@[simp] theorem State.raiseError_a (c : ErrCode) : (s.raiseError c).a = s.a := rfl
@[simp] theorem State.raiseError_b (c : ErrCode) : (s.raiseError c).b = s.b := rfl
@[simp] theorem State.raiseError_e (c : ErrCode) : (s.raiseError c).e = s.e := rfl
@[simp] theorem State.raiseError_n (c : ErrCode) : (s.raiseError c).n = s.n := rfl
@[simp] theorem State.raiseError_r (c : ErrCode) : (s.raiseError c).r = s.r := rfl
@[simp] theorem State.raiseError_irqen (c : ErrCode) : (s.raiseError c).irqen = s.irqen := rfl
@[simp] theorem State.raiseError_basesrc (c : ErrCode) : (s.raiseError c).basesrc = s.basesrc := rfl
@[simp] theorem State.raiseError_lastCmd (c : ErrCode) : (s.raiseError c).lastCmd = s.lastCmd := rfl
@[simp] theorem State.raiseError_done (c : ErrCode) : (s.raiseError c).done = true := rfl
@[simp] theorem State.raiseError_result (c : ErrCode) : (s.raiseError c).result = s.result := rfl
@[simp] theorem State.raiseError_err (c : ErrCode) : (s.raiseError c).err = true := rfl
@[simp] theorem State.raiseError_errCode (c : ErrCode) : (s.raiseError c).errCode = c := rfl
@[simp] theorem State.raiseError_len (c : ErrCode) : (s.raiseError c).len = s.len := rfl
@[simp] theorem State.raiseError_rounds (c : ErrCode) : (s.raiseError c).rounds = s.rounds := rfl
@[simp] theorem State.raiseError_phase (c : ErrCode) : (s.raiseError c).phase = s.phase := rfl
@[simp] theorem State.raiseError_round (c : ErrCode) : (s.raiseError c).round = s.round := rfl
@[simp] theorem State.raiseError_entropy (c : ErrCode) : (s.raiseError c).entropy = s.entropy := rfl
@[simp] theorem State.raiseError_schedule (c : ErrCode) : (s.raiseError c).schedule = s.schedule := rfl
@[simp] theorem State.raiseError_response (c : ErrCode) : (s.raiseError c).response = s.response := rfl
@[simp] theorem State.raiseError_freeCount (c : ErrCode) : (s.raiseError c).freeCount = s.freeCount := rfl

/-! ### State.start -/

@[simp] theorem State.start_params (i : Instr) : (s.start i).params = s.params := rfl
@[simp] theorem State.start_a (i : Instr) : (s.start i).a = s.a := rfl
@[simp] theorem State.start_b (i : Instr) : (s.start i).b = s.b := rfl
@[simp] theorem State.start_e (i : Instr) : (s.start i).e = s.e := rfl
@[simp] theorem State.start_n (i : Instr) : (s.start i).n = s.n := rfl
@[simp] theorem State.start_r (i : Instr) : (s.start i).r = s.r := rfl
@[simp] theorem State.start_irqen (i : Instr) : (s.start i).irqen = s.irqen := rfl
@[simp] theorem State.start_basesrc (i : Instr) : (s.start i).basesrc = s.basesrc := rfl
@[simp] theorem State.start_lastCmd (i : Instr) : (s.start i).lastCmd = s.lastCmd := rfl
@[simp] theorem State.start_done (i : Instr) : (s.start i).done = s.done := rfl
@[simp] theorem State.start_result (i : Instr) : (s.start i).result = s.result := rfl
@[simp] theorem State.start_err (i : Instr) : (s.start i).err = s.err := rfl
@[simp] theorem State.start_errCode (i : Instr) : (s.start i).errCode = s.errCode := rfl
@[simp] theorem State.start_len (i : Instr) : (s.start i).len = s.len := rfl
@[simp] theorem State.start_rounds (i : Instr) : (s.start i).rounds = s.rounds := rfl
@[simp] theorem State.start_phase (i : Instr) : (s.start i).phase = .running i := rfl
@[simp] theorem State.start_round (i : Instr) : (s.start i).round = s.round := rfl
@[simp] theorem State.start_entropy (i : Instr) : (s.start i).entropy = s.entropy := rfl
@[simp] theorem State.start_schedule (i : Instr) : (s.start i).schedule = s.schedule := rfl
@[simp] theorem State.start_response (i : Instr) : (s.start i).response = s.response := rfl
@[simp] theorem State.start_freeCount (i : Instr) : (s.start i).freeCount = s.freeCount := rfl

/-! ### State.finish -/

@[simp] theorem State.finish_params (f : Bool) : (s.finish f).params = s.params := rfl
@[simp] theorem State.finish_a (f : Bool) : (s.finish f).a = s.a := rfl
@[simp] theorem State.finish_b (f : Bool) : (s.finish f).b = s.b := rfl
@[simp] theorem State.finish_e (f : Bool) : (s.finish f).e = s.e := rfl
@[simp] theorem State.finish_n (f : Bool) : (s.finish f).n = s.n := rfl
@[simp] theorem State.finish_r (f : Bool) : (s.finish f).r = s.r := rfl
@[simp] theorem State.finish_irqen (f : Bool) : (s.finish f).irqen = s.irqen := rfl
@[simp] theorem State.finish_basesrc (f : Bool) : (s.finish f).basesrc = s.basesrc := rfl
@[simp] theorem State.finish_lastCmd (f : Bool) : (s.finish f).lastCmd = s.lastCmd := rfl
@[simp] theorem State.finish_done (f : Bool) : (s.finish f).done = true := rfl
@[simp] theorem State.finish_result (f : Bool) : (s.finish f).result = f := rfl
@[simp] theorem State.finish_err (f : Bool) : (s.finish f).err = s.err := rfl
@[simp] theorem State.finish_errCode (f : Bool) : (s.finish f).errCode = s.errCode := rfl
@[simp] theorem State.finish_len (f : Bool) : (s.finish f).len = s.len := rfl
@[simp] theorem State.finish_rounds (f : Bool) : (s.finish f).rounds = s.rounds := rfl
@[simp] theorem State.finish_phase (f : Bool) : (s.finish f).phase = .idle := rfl
@[simp] theorem State.finish_round (f : Bool) : (s.finish f).round = 0 := rfl
@[simp] theorem State.finish_entropy (f : Bool) : (s.finish f).entropy = .none := rfl
@[simp] theorem State.finish_schedule (f : Bool) : (s.finish f).schedule = s.schedule := rfl
@[simp] theorem State.finish_response (f : Bool) : (s.finish f).response = s.response := rfl
@[simp] theorem State.finish_freeCount (f : Bool) : (s.finish f).freeCount = s.freeCount := rfl

/-! ### State.complete -/

@[simp] theorem State.complete_params (v : Nat) (f : Bool) : (s.complete v f).params = s.params := rfl
@[simp] theorem State.complete_a (v : Nat) (f : Bool) : (s.complete v f).a = s.a := rfl
@[simp] theorem State.complete_b (v : Nat) (f : Bool) : (s.complete v f).b = s.b := rfl
@[simp] theorem State.complete_e (v : Nat) (f : Bool) : (s.complete v f).e = s.e := rfl
@[simp] theorem State.complete_n (v : Nat) (f : Bool) : (s.complete v f).n = s.n := rfl
@[simp] theorem State.complete_r (v : Nat) (f : Bool) : (s.complete v f).r = v := rfl
@[simp] theorem State.complete_irqen (v : Nat) (f : Bool) : (s.complete v f).irqen = s.irqen := rfl
@[simp] theorem State.complete_basesrc (v : Nat) (f : Bool) : (s.complete v f).basesrc = s.basesrc := rfl
@[simp] theorem State.complete_lastCmd (v : Nat) (f : Bool) : (s.complete v f).lastCmd = s.lastCmd := rfl
@[simp] theorem State.complete_done (v : Nat) (f : Bool) : (s.complete v f).done = true := rfl
@[simp] theorem State.complete_result (v : Nat) (f : Bool) : (s.complete v f).result = f := rfl
@[simp] theorem State.complete_err (v : Nat) (f : Bool) : (s.complete v f).err = s.err := rfl
@[simp] theorem State.complete_errCode (v : Nat) (f : Bool) : (s.complete v f).errCode = s.errCode := rfl
@[simp] theorem State.complete_len (v : Nat) (f : Bool) : (s.complete v f).len = s.len := rfl
@[simp] theorem State.complete_rounds (v : Nat) (f : Bool) : (s.complete v f).rounds = s.rounds := rfl
@[simp] theorem State.complete_phase (v : Nat) (f : Bool) : (s.complete v f).phase = .idle := rfl
@[simp] theorem State.complete_round (v : Nat) (f : Bool) : (s.complete v f).round = 0 := rfl
@[simp] theorem State.complete_entropy (v : Nat) (f : Bool) : (s.complete v f).entropy = .none := rfl
@[simp] theorem State.complete_schedule (v : Nat) (f : Bool) : (s.complete v f).schedule = s.schedule := rfl
@[simp] theorem State.complete_response (v : Nat) (f : Bool) : (s.complete v f).response = s.response := rfl
@[simp] theorem State.complete_freeCount (v : Nat) (f : Bool) : (s.complete v f).freeCount = s.freeCount := rfl

/-! ### State.completeVerdict -/

@[simp] theorem State.completeVerdict_params (f : Bool) : (s.completeVerdict f).params = s.params := rfl
@[simp] theorem State.completeVerdict_a (f : Bool) : (s.completeVerdict f).a = s.a := rfl
@[simp] theorem State.completeVerdict_b (f : Bool) : (s.completeVerdict f).b = s.b := rfl
@[simp] theorem State.completeVerdict_e (f : Bool) : (s.completeVerdict f).e = s.e := rfl
@[simp] theorem State.completeVerdict_n (f : Bool) : (s.completeVerdict f).n = s.n := rfl
@[simp] theorem State.completeVerdict_r (f : Bool) : (s.completeVerdict f).r = flagValue f := rfl
@[simp] theorem State.completeVerdict_irqen (f : Bool) : (s.completeVerdict f).irqen = s.irqen := rfl
@[simp] theorem State.completeVerdict_basesrc (f : Bool) : (s.completeVerdict f).basesrc = s.basesrc := rfl
@[simp] theorem State.completeVerdict_lastCmd (f : Bool) : (s.completeVerdict f).lastCmd = s.lastCmd := rfl
@[simp] theorem State.completeVerdict_done (f : Bool) : (s.completeVerdict f).done = true := rfl
@[simp] theorem State.completeVerdict_result (f : Bool) : (s.completeVerdict f).result = f := rfl
@[simp] theorem State.completeVerdict_err (f : Bool) : (s.completeVerdict f).err = s.err := rfl
@[simp] theorem State.completeVerdict_errCode (f : Bool) : (s.completeVerdict f).errCode = s.errCode := rfl
@[simp] theorem State.completeVerdict_len (f : Bool) : (s.completeVerdict f).len = s.len := rfl
@[simp] theorem State.completeVerdict_rounds (f : Bool) : (s.completeVerdict f).rounds = s.rounds := rfl
@[simp] theorem State.completeVerdict_phase (f : Bool) : (s.completeVerdict f).phase = .idle := rfl
@[simp] theorem State.completeVerdict_round (f : Bool) : (s.completeVerdict f).round = 0 := rfl
@[simp] theorem State.completeVerdict_entropy (f : Bool) : (s.completeVerdict f).entropy = .none := rfl
@[simp] theorem State.completeVerdict_schedule (f : Bool) : (s.completeVerdict f).schedule = s.schedule := rfl
@[simp] theorem State.completeVerdict_response (f : Bool) : (s.completeVerdict f).response = s.response := rfl
@[simp] theorem State.completeVerdict_freeCount (f : Bool) : (s.completeVerdict f).freeCount = s.freeCount := rfl

/-! ### State.scribble -/

@[simp] theorem State.scribble_params : s.scribble.params = s.params := rfl
@[simp] theorem State.scribble_a : s.scribble.a = s.a := rfl
@[simp] theorem State.scribble_b : s.scribble.b = s.b := rfl
@[simp] theorem State.scribble_e : s.scribble.e = s.e := rfl
@[simp] theorem State.scribble_n : s.scribble.n = s.n := rfl
@[simp] theorem State.scribble_r : s.scribble.r = Config.freeScratch s.freeCount % 2 ^ s.params.opw := rfl
@[simp] theorem State.scribble_irqen : s.scribble.irqen = s.irqen := rfl
@[simp] theorem State.scribble_basesrc : s.scribble.basesrc = s.basesrc := rfl
@[simp] theorem State.scribble_lastCmd : s.scribble.lastCmd = s.lastCmd := rfl
@[simp] theorem State.scribble_done : s.scribble.done = s.done := rfl
@[simp] theorem State.scribble_result : s.scribble.result = s.result := rfl
@[simp] theorem State.scribble_err : s.scribble.err = s.err := rfl
@[simp] theorem State.scribble_errCode : s.scribble.errCode = s.errCode := rfl
@[simp] theorem State.scribble_len : s.scribble.len = s.len := rfl
@[simp] theorem State.scribble_rounds : s.scribble.rounds = s.rounds := rfl
@[simp] theorem State.scribble_phase : s.scribble.phase = s.phase := rfl
@[simp] theorem State.scribble_round : s.scribble.round = s.round := rfl
@[simp] theorem State.scribble_entropy : s.scribble.entropy = s.entropy := rfl
@[simp] theorem State.scribble_schedule : s.scribble.schedule = s.schedule := rfl
@[simp] theorem State.scribble_response : s.scribble.response = s.response := rfl
@[simp] theorem State.scribble_freeCount : s.scribble.freeCount = s.freeCount + 1 := rfl

/-! ### State.requestBase -/

@[simp] theorem State.requestBase_params : s.requestBase.params = s.params := rfl
@[simp] theorem State.requestBase_a : s.requestBase.a = s.a := rfl
@[simp] theorem State.requestBase_b : s.requestBase.b = s.b := rfl
@[simp] theorem State.requestBase_e : s.requestBase.e = s.e := rfl
@[simp] theorem State.requestBase_n : s.requestBase.n = s.n := rfl
@[simp] theorem State.requestBase_r : s.requestBase.r = s.r := rfl
@[simp] theorem State.requestBase_irqen : s.requestBase.irqen = s.irqen := rfl
@[simp] theorem State.requestBase_basesrc : s.requestBase.basesrc = s.basesrc := rfl
@[simp] theorem State.requestBase_lastCmd : s.requestBase.lastCmd = s.lastCmd := rfl
@[simp] theorem State.requestBase_done : s.requestBase.done = s.done := rfl
@[simp] theorem State.requestBase_result : s.requestBase.result = s.result := rfl
@[simp] theorem State.requestBase_err : s.requestBase.err = s.err := rfl
@[simp] theorem State.requestBase_errCode : s.requestBase.errCode = s.errCode := rfl
@[simp] theorem State.requestBase_len : s.requestBase.len = s.len := rfl
@[simp] theorem State.requestBase_rounds : s.requestBase.rounds = s.rounds := rfl
@[simp] theorem State.requestBase_phase : s.requestBase.phase = s.phase := rfl
@[simp] theorem State.requestBase_round : s.requestBase.round = s.round := rfl
@[simp] theorem State.requestBase_entropy : s.requestBase.entropy = .requested := rfl
@[simp] theorem State.requestBase_schedule : s.requestBase.schedule = s.schedule := rfl
@[simp] theorem State.requestBase_response : s.requestBase.response = s.response := rfl
@[simp] theorem State.requestBase_freeCount : s.requestBase.freeCount = s.freeCount := rfl

/-! ### State.askForBase -/

@[simp] theorem State.askForBase_params (k : Nat) : (s.askForBase k).params = s.params := rfl
@[simp] theorem State.askForBase_a (k : Nat) : (s.askForBase k).a = s.a := rfl
@[simp] theorem State.askForBase_b (k : Nat) : (s.askForBase k).b = s.b := rfl
@[simp] theorem State.askForBase_e (k : Nat) : (s.askForBase k).e = s.e := rfl
@[simp] theorem State.askForBase_n (k : Nat) : (s.askForBase k).n = s.n := rfl
@[simp] theorem State.askForBase_r (k : Nat) : (s.askForBase k).r = Config.freeScratch s.freeCount % 2 ^ s.params.opw := rfl
@[simp] theorem State.askForBase_irqen (k : Nat) : (s.askForBase k).irqen = s.irqen := rfl
@[simp] theorem State.askForBase_basesrc (k : Nat) : (s.askForBase k).basesrc = s.basesrc := rfl
@[simp] theorem State.askForBase_lastCmd (k : Nat) : (s.askForBase k).lastCmd = s.lastCmd := rfl
@[simp] theorem State.askForBase_done (k : Nat) : (s.askForBase k).done = s.done := rfl
@[simp] theorem State.askForBase_result (k : Nat) : (s.askForBase k).result = s.result := rfl
@[simp] theorem State.askForBase_err (k : Nat) : (s.askForBase k).err = s.err := rfl
@[simp] theorem State.askForBase_errCode (k : Nat) : (s.askForBase k).errCode = s.errCode := rfl
@[simp] theorem State.askForBase_len (k : Nat) : (s.askForBase k).len = s.len := rfl
@[simp] theorem State.askForBase_rounds (k : Nat) : (s.askForBase k).rounds = s.rounds := rfl
@[simp] theorem State.askForBase_phase (k : Nat) : (s.askForBase k).phase = s.phase := rfl
@[simp] theorem State.askForBase_round (k : Nat) : (s.askForBase k).round = k := rfl
@[simp] theorem State.askForBase_entropy (k : Nat) : (s.askForBase k).entropy = .requested := rfl
@[simp] theorem State.askForBase_schedule (k : Nat) : (s.askForBase k).schedule = s.schedule := rfl
@[simp] theorem State.askForBase_response (k : Nat) : (s.askForBase k).response = s.response := rfl
@[simp] theorem State.askForBase_freeCount (k : Nat) : (s.askForBase k).freeCount = s.freeCount + 1 := rfl

/-! ### State.respond -/

@[simp] theorem State.respond_params (x : Response) : (s.respond x).params = s.params := rfl
@[simp] theorem State.respond_a (x : Response) : (s.respond x).a = s.a := rfl
@[simp] theorem State.respond_b (x : Response) : (s.respond x).b = s.b := rfl
@[simp] theorem State.respond_e (x : Response) : (s.respond x).e = s.e := rfl
@[simp] theorem State.respond_n (x : Response) : (s.respond x).n = s.n := rfl
@[simp] theorem State.respond_r (x : Response) : (s.respond x).r = s.r := rfl
@[simp] theorem State.respond_irqen (x : Response) : (s.respond x).irqen = s.irqen := rfl
@[simp] theorem State.respond_basesrc (x : Response) : (s.respond x).basesrc = s.basesrc := rfl
@[simp] theorem State.respond_lastCmd (x : Response) : (s.respond x).lastCmd = s.lastCmd := rfl
@[simp] theorem State.respond_done (x : Response) : (s.respond x).done = s.done := rfl
@[simp] theorem State.respond_result (x : Response) : (s.respond x).result = s.result := rfl
@[simp] theorem State.respond_err (x : Response) : (s.respond x).err = s.err := rfl
@[simp] theorem State.respond_errCode (x : Response) : (s.respond x).errCode = s.errCode := rfl
@[simp] theorem State.respond_len (x : Response) : (s.respond x).len = s.len := rfl
@[simp] theorem State.respond_rounds (x : Response) : (s.respond x).rounds = s.rounds := rfl
@[simp] theorem State.respond_phase (x : Response) : (s.respond x).phase = s.phase := rfl
@[simp] theorem State.respond_round (x : Response) : (s.respond x).round = s.round := rfl
@[simp] theorem State.respond_entropy (x : Response) : (s.respond x).entropy = s.entropy := rfl
@[simp] theorem State.respond_schedule (x : Response) : (s.respond x).schedule = s.schedule := rfl
@[simp] theorem State.respond_response (x : Response) : (s.respond x).response = x := rfl
@[simp] theorem State.respond_freeCount (x : Response) : (s.respond x).freeCount = s.freeCount := rfl

/-! ### State.respondUnspecified -/

@[simp] theorem State.respondUnspecified_params : s.respondUnspecified.params = s.params := rfl
@[simp] theorem State.respondUnspecified_a : s.respondUnspecified.a = s.a := rfl
@[simp] theorem State.respondUnspecified_b : s.respondUnspecified.b = s.b := rfl
@[simp] theorem State.respondUnspecified_e : s.respondUnspecified.e = s.e := rfl
@[simp] theorem State.respondUnspecified_n : s.respondUnspecified.n = s.n := rfl
@[simp] theorem State.respondUnspecified_r : s.respondUnspecified.r = s.r := rfl
@[simp] theorem State.respondUnspecified_irqen : s.respondUnspecified.irqen = s.irqen := rfl
@[simp] theorem State.respondUnspecified_basesrc : s.respondUnspecified.basesrc = s.basesrc := rfl
@[simp] theorem State.respondUnspecified_lastCmd : s.respondUnspecified.lastCmd = s.lastCmd := rfl
@[simp] theorem State.respondUnspecified_done : s.respondUnspecified.done = s.done := rfl
@[simp] theorem State.respondUnspecified_result : s.respondUnspecified.result = s.result := rfl
@[simp] theorem State.respondUnspecified_err : s.respondUnspecified.err = s.err := rfl
@[simp] theorem State.respondUnspecified_errCode : s.respondUnspecified.errCode = s.errCode := rfl
@[simp] theorem State.respondUnspecified_len : s.respondUnspecified.len = s.len := rfl
@[simp] theorem State.respondUnspecified_rounds : s.respondUnspecified.rounds = s.rounds := rfl
@[simp] theorem State.respondUnspecified_phase : s.respondUnspecified.phase = s.phase := rfl
@[simp] theorem State.respondUnspecified_round : s.respondUnspecified.round = s.round := rfl
@[simp] theorem State.respondUnspecified_entropy : s.respondUnspecified.entropy = s.entropy := rfl
@[simp] theorem State.respondUnspecified_schedule : s.respondUnspecified.schedule = s.schedule := rfl
@[simp] theorem State.respondUnspecified_response : s.respondUnspecified.response = .data (Config.freeWord s.freeCount) := rfl
@[simp] theorem State.respondUnspecified_freeCount : s.respondUnspecified.freeCount = s.freeCount + 1 := rfl

/-! ### State.resetBlock -/

@[simp] theorem State.resetBlock_params : s.resetBlock.params = s.params := rfl
@[simp] theorem State.resetBlock_a : s.resetBlock.a = 0 := rfl
@[simp] theorem State.resetBlock_b : s.resetBlock.b = 0 := rfl
@[simp] theorem State.resetBlock_e : s.resetBlock.e = 0 := rfl
@[simp] theorem State.resetBlock_n : s.resetBlock.n = 0 := rfl
@[simp] theorem State.resetBlock_r : s.resetBlock.r = 0 := rfl
@[simp] theorem State.resetBlock_irqen : s.resetBlock.irqen = false := rfl
@[simp] theorem State.resetBlock_basesrc : s.resetBlock.basesrc = true := rfl
@[simp] theorem State.resetBlock_lastCmd : s.resetBlock.lastCmd = 0x00000000#32 := rfl
@[simp] theorem State.resetBlock_done : s.resetBlock.done = false := rfl
@[simp] theorem State.resetBlock_result : s.resetBlock.result = false := rfl
@[simp] theorem State.resetBlock_err : s.resetBlock.err = false := rfl
@[simp] theorem State.resetBlock_errCode : s.resetBlock.errCode = .none := rfl
@[simp] theorem State.resetBlock_len : s.resetBlock.len = BitVec.ofNat 16 s.params.maxw := rfl
@[simp] theorem State.resetBlock_rounds : s.resetBlock.rounds = 10#8 := rfl
@[simp] theorem State.resetBlock_phase : s.resetBlock.phase = .idle := rfl
@[simp] theorem State.resetBlock_round : s.resetBlock.round = 0 := rfl
@[simp] theorem State.resetBlock_entropy : s.resetBlock.entropy = .none := rfl
@[simp] theorem State.resetBlock_schedule : s.resetBlock.schedule = s.schedule := rfl
@[simp] theorem State.resetBlock_response : s.resetBlock.response = s.response := rfl
@[simp] theorem State.resetBlock_freeCount : s.resetBlock.freeCount = s.freeCount := rfl

/-! ### State.setOperand -/

@[simp] theorem State.setOperand_params (x : OpReg) (v : Nat) : (s.setOperand x v).params = s.params := by cases x <;> rfl
@[simp] theorem State.setOperand_a (x : OpReg) (v : Nat) :
    (s.setOperand x v).a = if x = .A then v else s.a := by cases x <;> rfl
@[simp] theorem State.setOperand_b (x : OpReg) (v : Nat) :
    (s.setOperand x v).b = if x = .B then v else s.b := by cases x <;> rfl
@[simp] theorem State.setOperand_e (x : OpReg) (v : Nat) :
    (s.setOperand x v).e = if x = .E then v else s.e := by cases x <;> rfl
@[simp] theorem State.setOperand_n (x : OpReg) (v : Nat) :
    (s.setOperand x v).n = if x = .N then v else s.n := by cases x <;> rfl
@[simp] theorem State.setOperand_r (x : OpReg) (v : Nat) :
    (s.setOperand x v).r = if x = .R then v else s.r := by cases x <;> rfl
@[simp] theorem State.setOperand_irqen (x : OpReg) (v : Nat) : (s.setOperand x v).irqen = s.irqen := by cases x <;> rfl
@[simp] theorem State.setOperand_basesrc (x : OpReg) (v : Nat) : (s.setOperand x v).basesrc = s.basesrc := by cases x <;> rfl
@[simp] theorem State.setOperand_lastCmd (x : OpReg) (v : Nat) : (s.setOperand x v).lastCmd = s.lastCmd := by cases x <;> rfl
@[simp] theorem State.setOperand_done (x : OpReg) (v : Nat) : (s.setOperand x v).done = s.done := by cases x <;> rfl
@[simp] theorem State.setOperand_result (x : OpReg) (v : Nat) : (s.setOperand x v).result = s.result := by cases x <;> rfl
@[simp] theorem State.setOperand_err (x : OpReg) (v : Nat) : (s.setOperand x v).err = s.err := by cases x <;> rfl
@[simp] theorem State.setOperand_errCode (x : OpReg) (v : Nat) : (s.setOperand x v).errCode = s.errCode := by cases x <;> rfl
@[simp] theorem State.setOperand_len (x : OpReg) (v : Nat) : (s.setOperand x v).len = s.len := by cases x <;> rfl
@[simp] theorem State.setOperand_rounds (x : OpReg) (v : Nat) : (s.setOperand x v).rounds = s.rounds := by cases x <;> rfl
@[simp] theorem State.setOperand_phase (x : OpReg) (v : Nat) : (s.setOperand x v).phase = s.phase := by cases x <;> rfl
@[simp] theorem State.setOperand_round (x : OpReg) (v : Nat) : (s.setOperand x v).round = s.round := by cases x <;> rfl
@[simp] theorem State.setOperand_entropy (x : OpReg) (v : Nat) : (s.setOperand x v).entropy = s.entropy := by cases x <;> rfl
@[simp] theorem State.setOperand_schedule (x : OpReg) (v : Nat) : (s.setOperand x v).schedule = s.schedule := by cases x <;> rfl
@[simp] theorem State.setOperand_response (x : OpReg) (v : Nat) : (s.setOperand x v).response = s.response := by cases x <;> rfl
@[simp] theorem State.setOperand_freeCount (x : OpReg) (v : Nat) : (s.setOperand x v).freeCount = s.freeCount := by cases x <;> rfl

/-! ### Nat registers by name -/

@[simp] theorem State.op_A : s.op .A = s.a := rfl
@[simp] theorem State.op_B : s.op .B = s.b := rfl
@[simp] theorem State.op_E : s.op .E = s.e := rfl
@[simp] theorem State.op_N : s.op .N = s.n := rfl
@[simp] theorem State.op_R : s.op .R = s.r := rfl

/-- A write to one operand register changes that one only. -/
theorem State.op_setOperand (x y : OpReg) (v : Nat) :
    (s.setOperand x v).op y = if y = x then v else s.op y := by
  cases x <;> cases y <;> rfl

/-! ### BUSY is the phase (10_state.md R33) -/

theorem State.busy_of_idle (h : s.phase = .idle) : s.busy = false := by rw [State.busy, h]

theorem State.busy_of_running (i : Instr) (h : s.phase = .running i) : s.busy = true := by rw [State.busy, h]

theorem State.busy_eq_false_iff : s.busy = false ↔ s.phase = .idle := by
  unfold State.busy; split <;> simp [*]

theorem State.busy_eq_true_iff : s.busy = true ↔ ∃ i, s.phase = .running i := by
  unfold State.busy; split <;> simp [*]

end Sys2Proof.Machine
end

