-- ==== Sys2Proof/Laws/Operands.lean ====
section
/-! SUPPORT. The words of an operand register (10_state.md R20) and the byte conversions (20_memory.md R45). -/

/-- The legal P_OPW are those of 2 to 1024 words (00_scope.md R5). -/
theorem Sys2Proof.Params.wellFormed_iff (p : Sys2Proof.Params) :
    p.wellFormed = true ↔ 2 ≤ p.maxw ∧ p.maxw ≤ 1024 := by
  rw [Sys2Proof.Params.wellFormed, Bool.and_eq_true, decide_eq_true_iff, decide_eq_true_iff, Sys2Proof.Params.opw]
  omega

namespace Sys2Proof.Machine

theorem operandWord_toNat (x : Nat) (j : Nat) : (operandWord x j).toNat = x / 2 ^ (32 * j) % 2 ^ 32 := by
  rw [operandWord, BitVec.toNat_ofNat, Nat.shiftRight_eq_div_pow]

/-- The operand with word `j` replaced, as a sum: upper words, the new word, lower words. -/
theorem withOperandWord_eq (x : Nat) (j : Nat) (v : Word) :
    withOperandWord x j v
      = (x / 2 ^ (32 * (j + 1)) * 2 ^ 32 + v.toNat) * 2 ^ (32 * j) + x % 2 ^ (32 * j) := by
  rw [withOperandWord, Nat.shiftRight_eq_div_pow, Nat.shiftLeft_eq, Nat.shiftLeft_eq]

/-- Bits of the operand with word `j` replaced. -/
theorem testBit_withOperandWord (x : Nat) (j : Nat) (v : Word) (i : Nat) :
    (withOperandWord x j v).testBit i
      = if 32 * j ≤ i ∧ i < 32 * j + 32 then v.getLsbD (i - 32 * j) else x.testBit i := by
  have hv : v.toNat < 2 ^ 32 := v.isLt
  have hx : x % 2 ^ (32 * j) < 2 ^ (32 * j) := Nat.mod_lt _ (by positivity)
  rw [withOperandWord_eq, Nat.mul_comm _ (2 ^ (32 * j)), Nat.testBit_two_pow_mul_add _ hx]
  split
  · rename_i h
    rw [if_neg (by omega), Nat.testBit_mod_two_pow]
    simp [h]
  · rename_i h
    rw [Nat.mul_comm _ (2 ^ 32), Nat.testBit_two_pow_mul_add _ hv]
    split
    · rename_i h2
      rw [if_pos (by omega), BitVec.testBit_toNat]
    · rename_i h2
      rw [if_neg (by omega), Nat.testBit_div_two_pow]
      congr 1
      omega

theorem getLsbD_operandWord (x : Nat) (j i : Nat) :
    (operandWord x j).getLsbD i = (decide (i < 32) && x.testBit (32 * j + i)) := by
  rw [operandWord, BitVec.getLsbD_ofNat, Nat.testBit_shiftRight]

/-- Reading the word just written gives it back (10_state.md R20). -/
theorem operandWord_withOperandWord_same (x : Nat) (j : Nat) (v : Word) :
    operandWord (withOperandWord x j v) j = v := by
  apply BitVec.eq_of_getLsbD_eq
  intro i hi
  rw [getLsbD_operandWord, testBit_withOperandWord, if_pos (by omega)]
  simp [hi]

/-- Writing one word leaves every other word alone (10_state.md R20). -/
theorem operandWord_withOperandWord_ne (x : Nat) (j k : Nat) (v : Word) (h : k ≠ j) :
    operandWord (withOperandWord x j v) k = operandWord x k := by
  apply BitVec.eq_of_getLsbD_eq
  intro i hi
  rw [getLsbD_operandWord, getLsbD_operandWord, testBit_withOperandWord, if_neg (by omega)]

/-- Replacing a word below MAXW keeps the operand below 2^P_OPW. -/
theorem withOperandWord_lt (x : Nat) (j k : Nat) (v : Word) (hj : j < k) (hx : x < 2 ^ (32 * k)) :
    withOperandWord x j v < 2 ^ (32 * k) := by
  apply Nat.lt_pow_two_of_testBit
  intro i hi
  rw [testBit_withOperandWord, if_neg (by omega)]
  exact Nat.testBit_lt_two_pow (lt_of_lt_of_le hx (Nat.pow_le_pow_right (by omega) hi))

/-- `fits` is the spec's bound (40_command_lifecycle.md R62). -/
theorem State.fits_iff (s : State) (x : OpReg) (k : Nat) : s.fits x k = true ↔ s.op x < 2 ^ (32 * k) := by
  unfold State.fits
  rw [decide_eq_true_iff, Nat.shiftRight_eq_div_pow, Nat.div_eq_zero_iff]
  have : 2 ^ (32 * k) ≠ 0 := by positivity
  omega

/-! ### Bytes -/

theorem bytesOfNat_length (k m : Nat) : (bytesOfNat k m).length = k := by
  induction k with
  | zero => rfl
  | succ k ih => simp [bytesOfNat, ih]

theorem foldl_bytes (l : List Byte) (m : Nat) :
    l.foldl (fun m x => m * 256 + x.toNat) m = m * 256 ^ l.length + natOfBytes l := by
  unfold natOfBytes
  induction l generalizing m with
  | nil => simp
  | cons x rest ih =>
    simp only [List.foldl_cons, List.length_cons]
    rw [ih, ih (0 * 256 + x.toNat)]
    ring

theorem natOfBytes_cons (x : Byte) (rest : List Byte) :
    natOfBytes (x :: rest) = x.toNat * 256 ^ rest.length + natOfBytes rest := by
  rw [natOfBytes, List.foldl_cons, foldl_bytes]
  simp

theorem natOfBytes_lt (l : List Byte) : natOfBytes l < 256 ^ l.length := by
  induction l with
  | nil => simp [natOfBytes]
  | cons x rest ih =>
    rw [natOfBytes_cons, List.length_cons, pow_succ]
    have hx : x.toNat ≤ 255 := by have := x.isLt; omega
    nlinarith [Nat.mul_le_mul_right (256 ^ rest.length) hx]

end Sys2Proof.Machine
end

