-- ==== Sys2Proof/Laws/Ops.lean ====
section
/-! SUPPORT. The shared operations of the commands: what each check says, the accept and completion of a command, and what an
action of a command can do. -/

namespace Sys2Proof.Machine

variable (s : State)

/-! ### Checks (40_command_lifecycle.md R62) -/

@[simp] theorem firstFailure_nil : firstFailure [] = .none := rfl

theorem firstFailure_cons (b : Bool) (c : ErrCode) (rest : List (Bool × ErrCode)) :
    firstFailure ((b, c) :: rest) = if b then c else firstFailure rest := rfl

theorem lenIllegal_iff : s.lenIllegal = true ↔ s.len.toNat = 0 ∨ s.params.maxw < s.len.toNat := decide_eq_true_iff

theorem tooWide_iff (regs : List OpReg) : s.tooWide regs = true ↔ ∃ x ∈ regs, 2 ^ (32 * s.len.toNat) ≤ s.op x := by
  simp only [State.tooWide, List.any_eq_true, Bool.not_eq_true', ← Bool.not_eq_true, s.fits_iff, Nat.not_lt]

theorem modulusZero_iff : s.modulusZero = true ↔ s.n = 0 := decide_eq_true_iff

theorem modulusEven_iff : s.modulusEven = true ↔ s.n % 2 = 0 := decide_eq_true_iff

theorem outOfRange_iff : s.outOfRange = true ↔ s.n ≤ s.a ∨ s.n ≤ s.b := decide_eq_true_iff

theorem roundsIllegal_iff :
    s.roundsIllegal = true ↔ s.rounds.toNat = 0 ∨ (s.basesrc = false ∧ 16 < s.rounds.toNat) := decide_eq_true_iff

/-! ### Actions of a command -/

theorem runCommand_idle (i : Instr) (code : ErrCode) (engine : State) (h : s.phase = .idle) :
    runCommand i code engine s = .next (s.accept i code) := by rw [runCommand, h]

theorem runCommand_running (i cur : Instr) (code : ErrCode) (engine : State) (h : s.phase = .running cur) :
    runCommand i code engine s = .next engine := by rw [runCommand, h]

/-- The accept of every command but NOP (40_command_lifecycle.md R61). -/
theorem exec_of_idle (i : Instr) (hi : i ≠ .nop) (h : s.phase = .idle) :
    exec i s = .next (s.accept i (checksOf i s)) := by
  cases i
  · exact absurd rfl hi
  all_goals exact runCommand_idle s _ _ _ h

theorem exec_nop_of_idle (h : s.phase = .idle) :
    exec .nop s = .next ((s.beginAccept (encode .nop)).finish false) := by
  rw [exec, execNop, h]

theorem exec_montmul_of_running (c : Instr) (h : s.phase = .running c) :
    exec .montmul s = .next (s.complete (montProduct s.a s.b s.n s.len.toNat) true) := runCommand_running s _ c _ _ h

theorem exec_rsq_of_running (c : Instr) (h : s.phase = .running c) :
    exec .rsq s = .next (s.complete (montConstant s.n s.len.toNat) true) := runCommand_running s _ c _ _ h

theorem exec_modexp_of_running (c : Instr) (h : s.phase = .running c) :
    exec .modexp s = .next (s.complete (powMod s.a s.e s.n) true) := runCommand_running s _ c _ _ h

theorem exec_mrround_of_running (c : Instr) (h : s.phase = .running c) :
    exec .mrround s = .next (s.completeVerdict (millerRabin s.n s.a)) := runCommand_running s _ c _ _ h

theorem exec_mrtest_of_running (c : Instr) (h : s.phase = .running c) :
    exec .mrtest s = .next (mrtestEngine s) := runCommand_running s _ c _ _ h

theorem exec_modinv_of_running (c : Instr) (h : s.phase = .running c) :
    exec .modinv s = .next (s.completeInverse (modInv s.a s.n)) := runCommand_running s _ c _ _ h

/-- What the engine step of MRTEST can do: complete with a verdict, ask for a base, or wait. -/
theorem mrtestEngine_cases :
    (∃ f, mrtestEngine s = s.completeVerdict f) ∨
    (s.basesrc = true ∧ trivialVerdict s.n = none ∧
      ((s.entropy = .none ∧ mrtestEngine s = s.askForBase s.round) ∨
       (s.entropy = .requested ∧ mrtestEngine s = s) ∨
       (∃ a, s.entropy = .answered a ∧ s.round + 1 < s.rounds.toNat ∧
         mrtestEngine s = s.askForBase (s.round + 1)))) := by
  unfold mrtestEngine
  simp only [State.op_N]
  cases hv : trivialVerdict s.n with
  | some f => exact .inl ⟨f, rfl⟩
  | none =>
    cases hb : s.basesrc with
    | false => exact .inl ⟨_, rfl⟩
    | true =>
      cases he : s.entropy with
      | none => exact .inr ⟨rfl, rfl, .inl ⟨rfl, rfl⟩⟩
      | requested => exact .inr ⟨rfl, rfl, .inr (.inl ⟨rfl, rfl⟩)⟩
      | answered a =>
        simp only [State.drawnRound, if_true]
        split
        · split
          · rename_i hr
            exact .inr ⟨trivial, trivial, .inr (.inr ⟨a, rfl, hr, rfl⟩)⟩
          · exact .inl ⟨true, rfl⟩
        · exact .inl ⟨false, rfl⟩

/-- Everything an action of a command can do: an accept, a completion, or a step of an MRTEST that draws its bases. -/
theorem exec_cases (i : Instr) (t : State) (h : exec i s = .next t) :
    (s.phase = .idle ∧ i = .nop ∧ t = (s.beginAccept (encode .nop)).finish false) ∨
    (s.phase = .idle ∧ i ≠ .nop ∧ t = s.accept i (checksOf i s)) ∨
    (∃ c, s.phase = .running c ∧
      ((i = .nop ∧ t = s.finish false) ∨ (i ≠ .nop ∧ ∃ v f, t = s.complete v f) ∨
        (i = .mrtest ∧ t = mrtestEngine s))) := by
  cases hp : s.phase with
  | idle =>
    by_cases hi : i = .nop
    · subst hi
      rw [exec_nop_of_idle s hp] at h
      injection h with h
      exact .inl ⟨rfl, rfl, h.symm⟩
    · rw [exec_of_idle s i hi hp] at h
      injection h with h
      exact .inr (.inl ⟨rfl, hi, h.symm⟩)
  | running c =>
    refine .inr (.inr ⟨c, rfl, ?_⟩)
    cases i with
    | nop =>
      rw [exec, execNop, hp] at h
      injection h with h
      exact .inl ⟨rfl, h.symm⟩
    | montmul =>
      rw [exec_montmul_of_running s c hp] at h
      injection h with h
      exact .inr (.inl ⟨by decide, _, _, h.symm⟩)
    | rsq =>
      rw [exec_rsq_of_running s c hp] at h
      injection h with h
      exact .inr (.inl ⟨by decide, _, _, h.symm⟩)
    | modexp =>
      rw [exec_modexp_of_running s c hp] at h
      injection h with h
      exact .inr (.inl ⟨by decide, _, _, h.symm⟩)
    | mrround =>
      rw [exec_mrround_of_running s c hp] at h
      injection h with h
      exact .inr (.inl ⟨by decide, _, _, h.symm⟩)
    | mrtest =>
      rw [exec_mrtest_of_running s c hp] at h
      injection h with h
      exact .inr (.inr ⟨rfl, h.symm⟩)
    | modinv =>
      rw [exec_modinv_of_running s c hp] at h
      injection h with h
      refine .inr (.inl ⟨by decide, ?_⟩)
      cases hv : modInv s.a s.n with
      | some v => exact ⟨v, true, by rw [← h, hv]; rfl⟩
      | none => exact ⟨0, false, by rw [← h, hv]; rfl⟩

/-- Every action of a command answers a next state. -/
theorem exec_next (i : Instr) : ∃ t, exec i s = .next t := by
  cases hp : s.phase with
  | idle =>
    by_cases hi : i = .nop
    · subst hi
      exact ⟨_, exec_nop_of_idle s hp⟩
    · exact ⟨_, exec_of_idle s i hi hp⟩
  | running c =>
    cases i
    · exact ⟨s.finish false, by rw [exec, execNop, hp]⟩
    all_goals exact ⟨_, runCommand_running s _ c _ _ hp⟩

theorem accept_of_pass (i : Instr) : s.accept i .none = (s.beginAccept (encode i)).start i := rfl

theorem accept_of_fail (i : Instr) (c : ErrCode) (h : c ≠ .none) :
    s.accept i c = (s.beginAccept (encode i)).raiseError c := by rw [State.accept, if_neg h]

end Sys2Proof.Machine
end

