-- ==== Sys2Proof/Laws/Bus.lean ====
section
/-! SUPPORT. Host accesses: the address map at each mapped offset, and what a legal access and a step come down to. -/

namespace Sys2Proof.Machine

theorem windowOffset_base_add (p : Params) (off : Nat) (h : off < 2 ^ 16) :
    windowOffset p (p.base + off) = some off := by
  rw [windowOffset, if_pos ⟨by omega, by show p.base + off < p.base + 2 ^ 16; omega⟩]
  simp

@[simp] theorem targetOf_id (m : Nat) : targetOf m 0x0000 = .id := rfl
@[simp] theorem targetOf_config (m : Nat) : targetOf m 0x0004 = .config := rfl
@[simp] theorem targetOf_ctrl (m : Nat) : targetOf m 0x0008 = .ctrl := rfl
@[simp] theorem targetOf_cmd (m : Nat) : targetOf m 0x000C = .cmd := rfl
@[simp] theorem targetOf_status (m : Nat) : targetOf m 0x0010 = .status := rfl
@[simp] theorem targetOf_len (m : Nat) : targetOf m 0x0014 = .len := rfl
@[simp] theorem targetOf_rounds (m : Nat) : targetOf m 0x0018 = .rounds := rfl

theorem targetOf_in_window (m : Nat) (x : OpReg) (j : Nat) (hj : j < 1024) :
    targetOf m (windowBase x + 4 * j) = operandTarget m x (windowBase x + 4 * j) := by
  have hdiv : (windowBase x + 4 * j) / 0x1000 = windowBase x / 0x1000 := by
    cases x <;> simp only [windowBase] <;> omega
  rw [targetOf, hdiv]
  cases x <;> simp only [windowBase, Nat.reduceDiv]

/-- The operand windows (20_memory.md R37, R38): word `j` of X, unmapped from MAXW on. -/
theorem targetOf_window (m : Nat) (x : OpReg) (j : Nat) (hj : j < 1024) :
    targetOf m (windowBase x + 4 * j) = if j < m then .operandWord x j else .unmapped := by
  have hsub : (windowBase x + 4 * j - windowBase x) / 4 = j := by omega
  rw [targetOf_in_window m x j hj, operandTarget, hsub]

/-- A legal access reaches its target (20_memory.md R37, R39). -/
theorem handle_wr (s : State) (off : Nat) (v : Word) (h4 : off % 4 = 0) (h : off < 2 ^ 16) :
    s.handle (wr s.params off v) = s.busWrite v (targetOf s.params.maxw off) := by
  simp only [State.handle, wr, State.hostAccess, windowOffset_base_add s.params off h, State.accessAt,
    Access.wellFormed, h4, decide_true, Bool.and_self, if_true]

theorem handle_rd (s : State) (off : Nat) (h4 : off % 4 = 0) (h : off < 2 ^ 16) :
    s.handle (rd s.params off) = .next (s.busRead (targetOf s.params.maxw off)) := by
  simp only [State.handle, rd, State.hostAccess, windowOffset_base_add s.params off h, State.accessAt,
    Access.wellFormed, h4, decide_true, Bool.and_self, if_true]

/-- A write to CMD presents its word (20_memory.md R37). -/
theorem handle_cmd (s : State) (w : Word) :
    s.handle (wr s.params 0x000C w) = (s.respond .written).presentCommand w := by
  rw [handle_wr s 0x000C w rfl (by decide)]; rfl

/-- A read of word `j` of a window (20_memory.md R38). -/
theorem handle_rd_window (s : State) (x : OpReg) (j : Nat) (hj : j < s.params.maxw) (hm : s.params.maxw ≤ 1024) :
    s.handle (rd s.params (windowBase x + 4 * j)) = .next (s.busRead (.operandWord x j)) := by
  have h4 : (windowBase x + 4 * j) % 4 = 0 := by cases x <;> simp only [windowBase] <;> omega
  have hlt : windowBase x + 4 * j < 2 ^ 16 := by cases x <;> simp only [windowBase] <;> omega
  rw [handle_rd s _ h4 hlt, targetOf_window _ _ _ (by omega), if_pos hj]

/-- A write of word `j` of a window (20_memory.md R38). -/
theorem handle_wr_window (s : State) (x : OpReg) (j : Nat) (v : Word) (hj : j < s.params.maxw)
    (hm : s.params.maxw ≤ 1024) :
    s.handle (wr s.params (windowBase x + 4 * j) v) = s.busWrite v (.operandWord x j) := by
  have h4 : (windowBase x + 4 * j) % 4 = 0 := by cases x <;> simp only [windowBase] <;> omega
  have hlt : windowBase x + 4 * j < 2 ^ 16 := by cases x <;> simp only [windowBase] <;> omega
  rw [handle_wr s _ v h4 hlt, targetOf_window _ _ _ (by omega), if_pos hj]

/-! The writes of the control registers and operand words, by phase (20_memory.md R43). -/

theorem writeCtrl_of_srst (s : State) (v : Word) (h : v.getLsbD 31 = true) : s.writeCtrl v = s.resetBlock := if_pos h

theorem writeCtrl_of_idle (s : State) (v : Word) (h : v.getLsbD 31 = false) (hp : s.phase = .idle) :
    s.writeCtrl v = { s with irqen := v.getLsbD 0, basesrc := v.getLsbD 1 } := by
  rw [State.writeCtrl, h, s.busy_of_idle hp]; rfl

theorem writeCtrl_of_running (s : State) (v : Word) (c : Instr) (h : v.getLsbD 31 = false)
    (hp : s.phase = .running c) : s.writeCtrl v = { s with irqen := v.getLsbD 0 } := by
  rw [State.writeCtrl, h, s.busy_of_running c hp]; rfl

theorem writeLen_of_idle (s : State) (v : Word) (hp : s.phase = .idle) :
    s.writeLen v = { s with len := v.extractLsb' 0 16 } := by
  rw [State.writeLen, s.busy_of_idle hp]; rfl

theorem writeLen_of_running (s : State) (v : Word) (c : Instr) (hp : s.phase = .running c) :
    s.writeLen v = s.setErr .wbusy := by
  rw [State.writeLen, s.busy_of_running c hp]; rfl

theorem writeRounds_of_idle (s : State) (v : Word) (hp : s.phase = .idle) :
    s.writeRounds v = { s with rounds := v.extractLsb' 0 8 } := by
  rw [State.writeRounds, s.busy_of_idle hp]; rfl

theorem writeRounds_of_running (s : State) (v : Word) (c : Instr) (hp : s.phase = .running c) :
    s.writeRounds v = s.setErr .wbusy := by
  rw [State.writeRounds, s.busy_of_running c hp]; rfl

theorem writeOperandWord_of_idle (s : State) (x : OpReg) (j : Nat) (v : Word) (hp : s.phase = .idle) :
    s.writeOperandWord x j v = s.setOperand x (withOperandWord (s.op x) j v) := by
  rw [State.writeOperandWord, s.busy_of_idle hp]; rfl

theorem writeOperandWord_of_running (s : State) (x : OpReg) (j : Nat) (v : Word) (c : Instr)
    (hp : s.phase = .running c) : s.writeOperandWord x j v = s.setErr .wbusy := by
  rw [State.writeOperandWord, s.busy_of_running c hp]; rfl

/-! The three outcomes of a CMD write (40_command_lifecycle.md R61). -/

theorem presentCommand_of_running (s : State) (w : Word) (cur : Instr) (h : s.phase = .running cur) :
    s.presentCommand w = .next (s.setErr .busy) := by
  rw [State.presentCommand, s.busy_of_running cur h, if_pos rfl]

theorem presentCommand_of_decode (s : State) (w : Word) (i : Instr) (h : s.phase = .idle) (hd : decode w = .ok i) :
    s.presentCommand w = exec i s := by
  rw [State.presentCommand, s.busy_of_idle h, hd, if_neg (by decide)]

theorem presentCommand_of_illegal (s : State) (w : Word) (r : DecodeRefusal) (h : s.phase = .idle)
    (hd : decode w = .error r) : s.presentCommand w = .next (s.acceptIllegal w) := by
  rw [State.presentCommand, s.busy_of_idle h, hd, if_neg (by decide)]

/-- What a CMD write can do: a refusal while busy, the accept of a command, or the failed accept of an illegal word. -/
theorem presentCommand_cases (s : State) (w : Word) (t : State) (h : s.presentCommand w = .next t) :
    (∃ c, s.phase = .running c ∧ t = s.setErr .busy) ∨ (s.phase = .idle ∧ ∃ i, decode w = .ok i ∧ exec i s = .next t) ∨
      (s.phase = .idle ∧ t = s.acceptIllegal w) := by
  cases hp : s.phase with
  | running c =>
    rw [presentCommand_of_running s w c hp] at h
    injection h with h
    exact .inl ⟨c, rfl, h.symm⟩
  | idle =>
    cases hd : decode w with
    | ok i =>
      rw [presentCommand_of_decode s w i hp hd] at h
      exact .inr (.inl ⟨rfl, i, rfl, h⟩)
    | error r =>
      rw [presentCommand_of_illegal s w r hp hd] at h
      injection h with h
      exact .inr (.inr ⟨rfl, h.symm⟩)

theorem eq_ctrl_of_targetOf (m off : Nat) (h : targetOf m off = .ctrl) : off = 0x0008 := by
  unfold targetOf controlTarget operandTarget at h
  split at h <;> (try split_ifs at h) <;> first | assumption | cases h

theorem eq_cmd_of_targetOf (m off : Nat) (h : targetOf m off = .cmd) : off = 0x000C := by
  unfold targetOf controlTarget operandTarget at h
  split at h <;> (try split_ifs at h) <;> first | assumption | cases h

theorem eq_status_of_targetOf (m off : Nat) (h : targetOf m off = .status) : off = 0x0010 := by
  unfold targetOf controlTarget operandTarget at h
  split at h <;> (try split_ifs at h) <;> first | assumption | cases h

theorem lt_of_targetOf (m off : Nat) (x : OpReg) (j : Nat) (h : targetOf m off = .operandWord x j) : j < m := by
  unfold targetOf controlTarget operandTarget at h
  split at h <;> (try split_ifs at h) <;> cases h <;> assumption

/-- A legal write to an offset, by its target. -/
theorem busWrite_cases (s : State) (v : Word) (g : Target) (t : State) (h : s.busWrite v g = .next t) :
    (t = s.respond .busError) ∨ (g = .ctrl ∧ t = (s.respond .written).writeCtrl v) ∨
      (g = .cmd ∧ (s.respond .written).presentCommand v = .next t) ∨
      (g = .status ∧ t = (s.respond .written).writeStatus v) ∨ (t = (s.respond .written).writeLen v) ∨ (t = (s.respond .written).writeRounds v) ∨
      (∃ x j, x ≠ .R ∧ g = .operandWord x j ∧ t = (s.respond .written).writeOperandWord x j v) := by
  cases g with
  | cmd => exact .inr (.inr (.inl ⟨rfl, h⟩))
  | operandWord x j =>
    simp only [State.busWrite] at h
    split at h
    · injection h with h
      exact .inl h.symm
    · rename_i hx
      injection h with h
      exact .inr (.inr (.inr (.inr (.inr (.inr ⟨x, j, hx, rfl, h.symm⟩)))))
  | _ => injection h with h; simp [h]

/-- Everything one host access can do, whatever its address, width and data. -/
theorem handle_host_cases (s : State) (acc : Access) (t : State) (h : s.handle (.host acc) = .next t) :
    (∃ x, t = s.respond x) ∨ (t = s.respondUnspecified) ∨
    (∃ v, acc.width = .w32 ∧ acc.addr = s.params.base + 0x0008 ∧ acc.kind = .write v ∧
      t = (s.respond .written).writeCtrl v) ∨
    (∃ w, .host acc = wr s.params 0x000C w ∧ (s.respond .written).presentCommand w = .next t) ∨
    (∃ v, .host acc = wr s.params 0x0010 v ∧ t = (s.respond .written).writeStatus v) ∨ (∃ v, t = (s.respond .written).writeLen v) ∨
    (∃ v, t = (s.respond .written).writeRounds v) ∨
    (∃ x j v, x ≠ .R ∧ j < s.params.maxw ∧ t = (s.respond .written).writeOperandWord x j v) := by
  simp only [State.handle, State.hostAccess] at h
  split at h
  · rename_i off hoff
    unfold State.accessAt at h
    split at h
    · rename_i hw
      split at h
      · injection h with h
        generalize targetOf s.params.maxw off = g at h
        cases g with
        | operandWord x j =>
          simp only [State.busRead] at h
          split at h
          · exact .inr (.inl h.symm)
          · exact .inl ⟨_, h.symm⟩
        | _ => exact .inl ⟨_, h.symm⟩
      · rename_i v hk
        have hwr : ∀ k, off = k → .host acc = wr s.params k v := by
          rintro k rfl
          have ha : acc.addr = s.params.base + off := by
            unfold windowOffset at hoff
            split at hoff
            · injection hoff with hoff
              omega
            · cases hoff
          have hw32 : acc.width = .w32 := of_decide_eq_true ((Bool.and_eq_true _ _).mp hw).1
          cases acc
          simp only at ha hw32 hk
          rw [wr, ha, hw32, hk]
        rcases busWrite_cases s v _ t h with rfl | ⟨hg, rfl⟩ | ⟨hg, h⟩ | ⟨hg, rfl⟩ | rfl | rfl | ⟨x, j, hx, hg, rfl⟩
        · exact .inl ⟨_, rfl⟩
        · refine .inr (.inr (.inl ⟨v, ?_, ?_, hk, rfl⟩))
          · exact of_decide_eq_true ((Bool.and_eq_true _ _).mp hw).1
          · have h8 := eq_ctrl_of_targetOf _ _ hg
            unfold windowOffset at hoff
            split at hoff
            · injection hoff with hoff
              omega
            · cases hoff
        · exact .inr (.inr (.inr (.inl ⟨v, hwr _ (eq_cmd_of_targetOf _ _ hg), h⟩)))
        · exact .inr (.inr (.inr (.inr (.inl ⟨v, hwr _ (eq_status_of_targetOf _ _ hg), rfl⟩))))
        · exact .inr (.inr (.inr (.inr (.inr (.inl ⟨v, rfl⟩)))))
        · exact .inr (.inr (.inr (.inr (.inr (.inr (.inl ⟨v, rfl⟩))))))
        · exact .inr (.inr (.inr (.inr (.inr (.inr (.inr ⟨x, j, v, hx, lt_of_targetOf _ _ _ _ hg, rfl⟩))))))
    · injection h with h
      exact .inl ⟨_, h.symm⟩
  · injection h with h
    exact .inl ⟨_, h.symm⟩

/-- An access outside the window never reaches the block (20_memory.md R36; log 6). -/
theorem hostAccess_outside (s : State) (acc : Access) (h : windowOffset s.params acc.addr = none) :
    s.hostAccess acc = .next (s.respond .notSelected) := by
  rw [State.hostAccess, h]

theorem step_of_nil (s : State) (h : s.schedule = []) : step s = s.engineStep := by
  rw [step, State.nextEvent, h]

theorem step_of_cons (s : State) (ev : Event) (rest : List Event) (h : s.schedule = ev :: rest) :
    step s = { s with schedule := rest }.handle ev := by
  rw [step, State.nextEvent, h]

theorem runEvents_nil (s : State) : s.runEvents [] = .next s := rfl

theorem runEvents_cons (s t : State) (ev : Event) (rest : List Event) (h : s.handle ev = .next t) :
    s.runEvents (ev :: rest) = t.runEvents rest := by rw [State.runEvents, h]

theorem runEvents_append (s t : State) (l m : List Event) (h : s.runEvents l = .next t) :
    s.runEvents (l ++ m) = t.runEvents m := by
  induction l generalizing s with
  | nil => rw [State.runEvents] at h; injection h with h; rw [List.nil_append, h]
  | cons ev rest ih =>
    rw [State.runEvents] at h
    cases hh : s.handle ev with
    | next u =>
      rw [hh] at h
      rw [List.cons_append, runEvents_cons s u ev _ hh]
      exact ih u h
    | fault f => rw [hh] at h; cases h
    | refused r => rw [hh] at h; cases h

end Sys2Proof.Machine
end

