-- ==== Sys2Proof/Laws/Decode.lean ====
section
/-! SUPPORT. Small facts about command words: the fields of an encoding, and the byte lanes. -/

namespace Sys2Proof

/-- No two rows of the opcode map have one OPCODE. -/
theorem opcodeMap_no_overlap : opcodeMap.Pairwise (fun x y => x.1 ≠ y.1) := by decide

@[simp] theorem rsvdField_encode (i : Instr) : rsvdField (encode i) = 0#24 := by cases i <;> rfl

@[simp] theorem opcodeField_encode (i : Instr) : opcodeField (encode i) = opcodeOf i := by cases i <;> rfl

theorem lookup_opcodeOf (i : Instr) : opcodeMap.lookup (opcodeOf i) = some i := by cases i <;> rfl

/-- A word is its RSVD and OPCODE fields (30_encoding.md R53). -/
theorem word_eq_fields (w : Word) : w = rsvdField w ++ opcodeField w := by
  apply BitVec.eq_of_getLsbD_eq
  intro i hi
  simp only [rsvdField, opcodeField, BitVec.getLsbD_append, BitVec.getLsbD_extractLsb']
  split
  · simp [*]
  · rename_i h
    have h1 : i - 8 < 24 := by omega
    have h2 : 8 + (i - 8) = i := by omega
    simp [h1, h2]

/-- What decoding can do: a word is an encoding, or it is refused for its RSVD or for its OPCODE (30_encoding.md R56). -/
theorem decode_cases (w : Word) :
    (∃ i, decode w = .ok i ∧ w = encode i) ∨ (decode w = .error .rsvdNonZero ∧ rsvdField w ≠ 0#24) ∨
      (decode w = .error .reservedOpcode ∧ rsvdField w = 0#24 ∧ 7 ≤ (opcodeField w).toNat) := by
  by_cases h : rsvdField w = 0#24
  · by_cases h7 : (opcodeField w).toNat < 7
    · left
      have hw := word_eq_fields w
      have hop : opcodeField w = BitVec.ofNat 8 (opcodeField w).toNat := by simp
      rw [h] at hw
      generalize (opcodeField w).toNat = k at hop h7
      have hk : k = 0 ∨ k = 1 ∨ k = 2 ∨ k = 3 ∨ k = 4 ∨ k = 5 ∨ k = 6 := by omega
      rw [hw, hop]
      rcases hk with rfl | rfl | rfl | rfl | rfl | rfl | rfl
      · exact ⟨.nop, rfl, rfl⟩
      · exact ⟨.montmul, rfl, rfl⟩
      · exact ⟨.rsq, rfl, rfl⟩
      · exact ⟨.modexp, rfl, rfl⟩
      · exact ⟨.mrround, rfl, rfl⟩
      · exact ⟨.mrtest, rfl, rfl⟩
      · exact ⟨.modinv, rfl, rfl⟩
    · right; right
      have hn : ∀ c : BitVec 8, c.toNat < 7 → (opcodeField w == c) = false := by
        intro c hc
        rw [beq_eq_false_iff_ne]
        rintro rfl
        omega
      refine ⟨?_, h, by omega⟩
      rw [decode, if_neg (by simp [h])]
      simp [opcodeMap, List.lookup, hn]
  · exact .inr (.inl ⟨by rw [decode, if_pos h], h⟩)

/-- The lanes of a word put together again are the word (20_memory.md R44). -/
theorem wordOfLanes_lanes (w : Word) :
    wordOfLanes (laneOf w 0) (laneOf w 1) (laneOf w 2) (laneOf w 3) = w := by
  apply BitVec.eq_of_getLsbD_eq
  intro i hi
  simp only [wordOfLanes, laneOf, BitVec.getLsbD_append, BitVec.getLsbD_extractLsb']
  have hcases : i < 8 ∨ (8 ≤ i ∧ i < 16) ∨ (16 ≤ i ∧ i < 24) ∨ (24 ≤ i ∧ i < 32) := by omega
  rcases hcases with h | h | h | h
  · simp [h]
  · have h1 : ¬ i < 8 := by omega
    have h2 : i - 8 < 8 := by omega
    have h3 : 8 + (i - 8) = i := by omega
    simp [h1, h2, h3]
  · have h1 : ¬ i < 8 := by omega
    have h2 : ¬ i - 8 < 8 := by omega
    have h3 : i - 8 - 8 < 8 := by omega
    have h4 : 16 + (i - 8 - 8) = i := by omega
    simp [h1, h2, h3, h4]
  · have h1 : ¬ i < 8 := by omega
    have h2 : ¬ i - 8 < 8 := by omega
    have h3 : ¬ i - 8 - 8 < 8 := by omega
    have h4 : i - 8 - 8 - 8 < 8 := by omega
    have h5 : 24 + (i - 8 - 8 - 8) = i := by omega
    simp [h1, h2, h3, h4, h5]

/-- Each lane of a word put together from lanes (20_memory.md R44). -/
theorem lanes_wordOfLanes (b0 b1 b2 b3 : Byte) :
    laneOf (wordOfLanes b0 b1 b2 b3) 0 = b0 ∧ laneOf (wordOfLanes b0 b1 b2 b3) 1 = b1 ∧
      laneOf (wordOfLanes b0 b1 b2 b3) 2 = b2 ∧ laneOf (wordOfLanes b0 b1 b2 b3) 3 = b3 := by
  refine ⟨?_, ?_, ?_, ?_⟩ <;> apply BitVec.eq_of_getLsbD_eq <;> intro i hi <;>
    simp only [wordOfLanes, laneOf, BitVec.getLsbD_append, BitVec.getLsbD_extractLsb']
  · simp [hi]
  · have h1 : ¬ 8 + i < 8 := by omega
    have h2 : 8 + i - 8 = i := by omega
    simp [h1, h2, hi]
  · have h1 : ¬ 16 + i < 8 := by omega
    have h2 : ¬ 16 + i - 8 < 8 := by omega
    have h3 : 16 + i - 8 - 8 = i := by omega
    simp [h1, h2, h3, hi]
  · have h1 : ¬ 24 + i < 8 := by omega
    have h2 : ¬ 24 + i - 8 < 8 := by omega
    have h3 : ¬ 24 + i - 8 - 8 < 8 := by omega
    have h4 : 24 + i - 8 - 8 - 8 = i := by omega
    simp [h1, h2, h3, h4, hi]

theorem tableWord_32 (w : Word) : tableWord 32 w.toNat = w := by
  rw [tableWord, Nat.mod_eq_of_lt w.isLt, BitVec.ofNat_toNat, BitVec.setWidth_eq]

end Sys2Proof
end

