-- ==== Sys2Proof/Laws/Host.lean ====
section
/-! SUPPORT. Host programs: what an access, a sequence of accesses and a `wait` come down to, and how a block with nothing to do
meets the events of the other agents. -/

namespace Sys2Proof.Machine

/-! ### Runs -/

@[simp] theorem HostRun.andThen_done {α β : Type} (v : α) (s : State) (rest : Traffic) (f : α → Program β) :
    (HostRun.done v s rest).andThen f = f v s rest := rfl
@[simp] theorem HostRun.andThen_pending {α β : Type} (s : State) (f : α → Program β) :
    (HostRun.pending s : HostRun α).andThen f = .pending s := rfl
@[simp] theorem HostRun.andThen_busError {α β : Type} (s : State) (f : α → Program β) :
    (HostRun.busError s : HostRun α).andThen f = .busError s := rfl
@[simp] theorem Program.result_run {α : Type} (v : α) (s : State) (traffic : Traffic) :
    Program.result v s traffic = .done v s traffic := rfl

/-- A program that is done hands over its value, its state and the traffic that is left. -/
theorem Program.andThen_of_done {α β : Type} (x : Program α) (f : α → Program β) (s t : State) (v : α)
    (traffic rest : Traffic) (h : x s traffic = .done v t rest) : x.andThen f s traffic = f v t rest := by
  rw [Program.andThen, h]; rfl

theorem withLen_run {α : Type} (f : Nat → Program α) (s : State) (traffic : Traffic) :
    withLen f s traffic = f s.len.toNat s traffic := rfl

/-! ### One access -/

theorem access_cons (ev : Event) (s t : State) (batch : List Event) (rest : Traffic)
    (h : s.runEvents (batch ++ [ev]) = .next t) : access ev s (batch :: rest) = HostRun.ofAnswer t rest := by
  simp only [access, h]

theorem ofAnswer_of_written (t : State) (rest : Traffic) (h : t.response = .written) :
    HostRun.ofAnswer t rest = .done .written t rest := by rw [HostRun.ofAnswer, h]

theorem ofAnswer_of_data (t : State) (rest : Traffic) (w : Word) (h : t.response = .data w) :
    HostRun.ofAnswer t rest = .done (.data w) t rest := by rw [HostRun.ofAnswer, h]

/-! ### A block with nothing to do -/

/-- Nothing runs and no request is outstanding, on a block with the parameters `p`. -/
structure State.Settled (s : State) (p : Params) : Prop where
  idle : s.phase = .idle
  noRequest : s.entropy = .none
  params : s.params = p

theorem State.Inv.settled {s : State} (h : s.Inv) (hp : s.phase = .idle) : s.Settled s.params where
  idle := hp
  noRequest := by
    by_contra hn
    have hr := (h.request hn).running
    rw [hp] at hr
    cases hr
  params := rfl

/-- The engine and the entropy source leave a settled block alone (60_exceptions.md R107). -/
theorem State.Settled.handle_quiet {s : State} {p : Params} (h : s.Settled p) (ev : Event) (hh : ∀ acc, ev ≠ .host acc)
    (hr : ev ≠ .hardwareReset) : s.handle ev = .next s := by
  cases ev with
  | host acc => exact absurd rfl (hh acc)
  | hardwareReset => exact absurd rfl hr
  | engine => simp only [State.handle, State.engineStep, h.idle]
  | engineInternal => simp [State.handle, State.internalStep, s.busy_of_idle h.idle]
  | entropy v => simp [State.handle, State.offerEntropy, State.waiting, h.noRequest]

theorem State.Settled.runEvents_quiet {s : State} {p : Params} (h : s.Settled p) (batch : List Event) (hq : quiet batch) :
    s.runEvents batch = .next s := by
  induction batch with
  | nil => rfl
  | cons ev rest ih =>
    rw [runEvents_cons _ _ _ _ (h.handle_quiet ev (hq ev (by simp)).1 (hq ev (by simp)).2)]
    exact ih fun e he => hq e (by simp [he])

/-- An access that reaches a settled block. -/
theorem State.Settled.access_cons {s : State} {p : Params} (h : s.Settled p) (ev : Event) (t : State) (batch : List Event)
    (rest : Traffic) (hq : quiet batch) (ht : s.handle ev = .next t) :
    access ev s (batch :: rest) = HostRun.ofAnswer t rest :=
  Machine.access_cons ev s t batch rest
    ((runEvents_append _ _ _ _ (h.runEvents_quiet batch hq)).trans (runEvents_cons _ _ _ _ ht))

/-! ### Sequences of accesses -/

theorem accesses_cons (ev : Event) (evs : List Event) (s t u : State) (x : Response) (xs : List Response)
    (traffic rest rest' : Traffic) (h : access ev s traffic = .done x t rest) (hs : accesses evs t rest = .done xs u rest') :
    accesses (ev :: evs) s traffic = .done (x :: xs) u rest' := by
  rw [accesses, Program.andThen_of_done _ _ _ _ _ _ _ h, Program.andThen_of_done _ _ _ _ _ _ _ hs]; rfl

theorem accesses_append (l m : List Event) (s t u : State) (xs ys : List Response) (traffic rest rest' : Traffic)
    (hl : accesses l s traffic = .done xs t rest) (hm : accesses m t rest = .done ys u rest') :
    accesses (l ++ m) s traffic = .done (xs ++ ys) u rest' := by
  induction l generalizing s xs traffic with
  | nil =>
    injection hl with h1 h2 h3
    subst h1 h2 h3
    exact hm
  | cons ev l ih =>
    rw [accesses, Program.andThen] at hl
    cases ha : access ev s traffic with
    | done x v r =>
      rw [ha, HostRun.andThen_done, Program.andThen] at hl
      cases hb : accesses l v r with
      | done zs w r' =>
        rw [hb, HostRun.andThen_done] at hl
        injection hl with h1 h2 h3
        subst h1 h2 h3
        exact accesses_cons _ _ _ _ _ _ _ _ _ _ ha (ih v zs r hb)
      | pending w => rw [hb] at hl; cases hl
      | busError w => rw [hb] at hl; cases hl
      | stopped => rw [hb] at hl; cases hl
    | pending w => rw [ha] at hl; cases hl
    | busError w => rw [ha] at hl; cases hl
    | stopped => rw [ha] at hl; cases hl

/-- Accesses that keep a block settled and get normal answers run as their events do, whatever quiet traffic stands before each
of them. -/
theorem State.Settled.accesses {p : Params} (evs : List Event)
    (step : ∀ u : State, u.Settled p → ∀ ev ∈ evs, (∃ acc, ev = .host acc) ∧
      ∃ t : State, u.handle ev = .next t ∧ t.Settled p ∧ (t.response = .written ∨ ∃ w, t.response = .data w))
    {s : State} (h : s.Settled p) (batches rest : Traffic) (hl : batches.length = evs.length)
    (hq : ∀ batch ∈ batches, quiet batch) :
    ∃ t, s.runEvents evs = .next t ∧ t.Settled p ∧
      Machine.accesses evs s (batches ++ rest) = .done (s.answers evs) t rest := by
  induction evs generalizing s batches with
  | nil =>
    have hb : batches = [] := List.length_eq_zero_iff.1 hl
    subst hb
    exact ⟨s, rfl, h, rfl⟩
  | cons ev evs ih =>
    cases batches with
    | nil => cases hl
    | cons batch batches =>
      obtain ⟨⟨acc, rfl⟩, t, ht, hset, hans⟩ := step s h ev (by simp)
      obtain ⟨u, hu, hsu, hacc⟩ := ih (fun v hv e he => step v hv e (by simp [he])) hset batches (by simpa using hl)
        fun b hb => hq b (by simp [hb])
      refine ⟨u, (runEvents_cons _ _ _ _ ht).trans hu, hsu, ?_⟩
      have ha : access (.host acc) s (batch :: (batches ++ rest)) = .done t.response t (batches ++ rest) := by
        rw [h.access_cons _ t batch _ (hq batch (by simp)) ht]
        rcases hans with hw | ⟨w, hw⟩
        · rw [ofAnswer_of_written t _ hw, hw]
        · rw [ofAnswer_of_data t _ w hw, hw]
      rw [List.cons_append, accesses_cons _ _ _ _ _ _ _ _ _ _ ha hacc]
      simp only [State.answers, ht]

/-! ### Reads of STATUS -/

/-- Bit 0 of STATUS is BUSY (10_state.md R28). -/
theorem statusWord_bit0 (s : State) : s.statusWord.getLsbD 0 = s.busy := by
  rw [State.statusWord, BitVec.getLsbD_append]
  cases s.busy <;> rfl

theorem readStatus_cons (p : Params) (s t : State) (batch : List Event) (rest : Traffic) (hp : t.params = p)
    (h : s.runEvents batch = .next t) :
    readStatus p s (batch :: rest) = .done t.statusWord { t with response := .data t.statusWord } rest := by
  subst hp
  have hr : t.handle (rd t.params 0x0010) = .next (t.respond (.data t.statusWord)) :=
    handle_rd t 0x0010 rfl (by decide)
  have ha := access_cons (rd t.params 0x0010) s _ batch rest ((runEvents_append _ _ _ _ h).trans (runEvents_cons _ _ _ _ hr))
  rw [ofAnswer_of_data _ _ t.statusWord rfl] at ha
  exact Program.andThen_of_done _ _ _ _ _ _ _ ha

/-- A read of STATUS with BUSY = 1: `wait` goes on. -/
theorem wait_of_busy (p : Params) (s t : State) (batch : List Event) (rest : Traffic) (hp : t.params = p)
    (h : s.runEvents batch = .next t) (hb : t.busy = true) :
    wait p s (batch :: rest) = wait p { t with response := .data t.statusWord } rest := by
  rw [wait, readStatus_cons p s t batch [] hp h]
  simp only [statusWord_bit0, hb, if_true]

/-- A read of STATUS with BUSY = 0: `wait` is done. -/
theorem wait_of_not_busy (p : Params) (s t : State) (batch : List Event) (rest : Traffic) (hp : t.params = p)
    (h : s.runEvents batch = .next t) (hb : t.busy = false) :
    wait p s (batch :: rest) = .done t.statusWord { t with response := .data t.statusWord } rest := by
  rw [wait, readStatus_cons p s t batch [] hp h]
  simp only [statusWord_bit0, hb, Bool.false_eq_true, if_false]

end Sys2Proof.Machine
end

