-- ==== Sys2Proof/Laws/PerInstr.lean ====
section
/-! SUPPORT. Facts about each command as syntax. -/

namespace Sys2Proof.Laws.LegalWord

/-- A command is well formed, its word has RSVD = 0 and an OPCODE below 0x07 (30_encoding.md R53, R55). -/
def Statement (i : Instr) : Prop :=
  i.wellFormed = true ∧ rsvdField (encode i) = 0#24 ∧ (opcodeField (encode i)).toNat < 0x07

theorem nop : Statement .nop := by unfold Statement; decide
theorem montmul : Statement .montmul := by unfold Statement; decide
theorem rsq : Statement .rsq := by unfold Statement; decide
theorem modexp : Statement .modexp := by unfold Statement; decide
theorem mrround : Statement .mrround := by unfold Statement; decide
theorem mrtest : Statement .mrtest := by unfold Statement; decide
theorem modinv : Statement .modinv := by unfold Statement; decide

end Sys2Proof.Laws.LegalWord
end

