-- ==== Sys2Proof/Tests/Slice0.lean ====
section
/-! SUPPORT. The model's own tests. Expected values are those of 95_test_vectors.md, named by its vector numbers, or of the rule
named; then one witness theorem for each obligation that has hypotheses, showing that they can be met together. -/

namespace Sys2Proof.Tests

open Sys2Proof Sys2Proof.Machine

-- One kernel evaluation at a time.
set_option Elab.async false

/-! ### States of the tests -/

/-- Reset with LEN and four operands set. -/
def idleWith (len a b e n : Nat) : State :=
  { State.reset with len := BitVec.ofNat 16 len, a := a, b := b, e := e, n := n }

/-- The same while `cur` runs. -/
def runningWith (cur : Instr) (len a b e n : Nat) : State := { idleWith len a b e n with phase := .running cur }

/-- The state of a next outcome. -/
def next : Result → Option State
  | .next t => some t
  | .fault _ => none
  | .refused _ => none

/-- STATUS after an action. -/
def statusAfter (x : Result) : Option Word := (next x).map State.statusWord

/-- R and RESULT after an action. -/
def resultAfter (x : Result) : Option (Nat × Bool) := (next x).map fun t => (t.r, t.result)

/-- The answer of the host port after an event. -/
def answerAfter (x : Result) : Option Response := (next x).map State.response

/-- MRTEST with the fixed table, running. -/
def fixedTest (rounds len n : Nat) : State :=
  { runningWith .mrtest len 0 0 0 n with basesrc := false, rounds := BitVec.ofNat 8 rounds }

/-- Program P7 while the engine waits for a base: N = 3233, ROUNDS = 10, BASESRC = 1. -/
def waiting : State := { runningWith .mrtest 1 0 0 0 3233 with entropy := .requested }

/-! ### WellFormed refuses ill-formed terms -/

theorem test_params_32_bits_refused : Params.wellFormed { maxw := 1, base := 0 } = false := by decide
theorem test_params_32800_bits_refused : Params.wellFormed { maxw := 1025, base := 0 } = false := by decide
theorem test_params_bounds_accepted :
    Params.wellFormed { maxw := 2, base := 0 } = true ∧ Params.wellFormed { maxw := 1024, base := 7 } = true := by decide
theorem test_access_byte_refused : Access.wellFormed { addr := 0, width := .w8, kind := .read } 0x0010 = false := by decide
theorem test_access_half_refused : Access.wellFormed { addr := 0, width := .w16, kind := .read } 0x0010 = false := by decide
theorem test_access_double_refused : Access.wellFormed { addr := 0, width := .w64, kind := .read } 0x0010 = false := by decide
theorem test_access_burst_refused : Access.wellFormed { addr := 0, width := .burst, kind := .read } 0x0010 = false := by decide
theorem test_access_unaligned_refused : Access.wellFormed { addr := 0, width := .w32, kind := .read } 0x0012 = false := by decide
/-- A command has no field, so no term of `Instr` is ill formed (30_encoding.md R54). -/
theorem test_commands_well_formed : ∀ i : Instr, i.wellFormed = true := by intro i; cases i <;> rfl

/-! ### Decoding (30_encoding.md R53, R55; the words are written out from the table) -/

theorem test_decode_nop : decode 0b00000000000000000000000000000000#32 = .ok .nop := by decide
theorem test_decode_montmul : decode 0b00000000000000000000000000000001#32 = .ok .montmul := by decide
theorem test_decode_rsq : decode 0b00000000000000000000000000000010#32 = .ok .rsq := by decide
theorem test_decode_modexp : decode 0b00000000000000000000000000000011#32 = .ok .modexp := by decide
theorem test_decode_mrround : decode 0b00000000000000000000000000000100#32 = .ok .mrround := by decide
theorem test_decode_mrtest : decode 0b00000000000000000000000000000101#32 = .ok .mrtest := by decide
theorem test_decode_modinv : decode 0b00000000000000000000000000000110#32 = .ok .modinv := by decide
theorem test_decode_first_and_last_reserved :
    decode 0x00000007#32 = .error .reservedOpcode ∧ decode 0x000000FF#32 = .error .reservedOpcode := by decide
theorem test_decode_rsvd_lowest_and_highest_bit :
    decode 0x00000103#32 = .error .rsvdNonZero ∧ decode 0x80000000#32 = .error .rsvdNonZero := by decide
/-- Byte lane 0 carries the OPCODE (20_memory.md R44). -/
theorem test_decode_bytes : decodeBytes [0x06#8, 0x00#8, 0x00#8, 0x00#8, 0xAA#8] = .ok (.modinv, [0xAA#8]) := by decide
theorem test_decode_bytes_truncated : decodeBytes [0x06#8, 0x00#8, 0x00#8] = .error .truncated := by decide
theorem test_decode_table_word : decodeTableWord 32 0x5 = some .mrtest ∧ decodeTableWord 32 0x105 = none := by decide

/-! ### Commands -/

/-- K6: NOP with LEN = 0 leaves STATUS = 0x02. -/
theorem test_nop_ignores_len : statusAfter (exec .nop (idleWith 0 0 0 0 0)) = some 0x02#32 := by decide
/-- P8: with IRQEN = 1 a NOP raises irq. -/
theorem test_nop_raises_irq :
    (next (exec .nop { State.reset with irqen := true })).map State.irq = some true := by decide
/-- M1. -/
theorem test_montmul_m1 :
    resultAfter (exec .montmul (runningWith .montmul 1 5 7 0 3233)) = some (98, true) := by decide +kernel
/-- K7: an operand word at or above LEN. -/
theorem test_montmul_width : statusAfter (exec .montmul (idleWith 1 (2 ^ 32) 1 0 3233)) = some 0x4A#32 := by decide +kernel
/-- M11: LEN = 2. -/
theorem test_rsq_m11 : resultAfter (exec .rsq (runningWith .rsq 2 0 0 0 3233)) = some (1232, true) := by decide +kernel
/-- K8: RSQ does not read A, so it starts. -/
theorem test_rsq_ignores_a : statusAfter (exec .rsq (idleWith 1 (2 ^ 32) 0 0 3233)) = some 0x01#32 := by decide +kernel
/-- X3: a base above N is reduced. -/
theorem test_modexp_x3 :
    resultAfter (exec .modexp (runningWith .modexp 1 3298 0 65537 3233)) = some (2790, true) := by decide +kernel
/-- X16. -/
theorem test_modexp_x16 :
    resultAfter (exec .modexp (runningWith .modexp 1 0xDEADBEEF 0 0xFFFFFFFF 0xFFFFFFFB))
      = some (0xEB4B7E52, true) := by decide +kernel
/-- W1: a strong liar. -/
theorem test_mrround_w1 :
    resultAfter (exec .mrround (runningWith .mrround 1 174 0 0 221)) = some (1, true) := by decide +kernel
/-- W10. -/
theorem test_mrround_w10 :
    resultAfter (exec .mrround (runningWith .mrround 1 3 0 0 2047)) = some (0, false) := by decide +kernel
/-- T21. -/
theorem test_mrtest_t21 : resultAfter (exec .mrtest (fixedTest 8 2 341550071728321)) = some (1, true) := by decide +kernel
/-- T22: one round more. -/
theorem test_mrtest_t22 : resultAfter (exec .mrtest (fixedTest 9 2 341550071728321)) = some (0, false) := by decide +kernel
/-- V1. -/
theorem test_modinv_v1 :
    resultAfter (exec .modinv (runningWith .modinv 1 65537 0 0 3120)) = some (2753, true) := by decide +kernel
/-- V10: no inverse. -/
theorem test_modinv_v10 :
    resultAfter (exec .modinv (runningWith .modinv 1 65537 0 0 196611)) = some (0, false) := by decide +kernel

/-! ### Acceptance checks (2.1 of the vectors) -/

/-- K5: LEN = 129 is above MAXW. -/
theorem test_check_len : statusAfter (exec .modexp (idleWith 129 2 0 3 5)) = some 0x3A#32 := by decide +kernel
/-- K9: MODZERO comes before EVENMOD. -/
theorem test_check_modzero : statusAfter (exec .modexp (idleWith 1 1 0 1 0)) = some 0x5A#32 := by decide +kernel
/-- K10. -/
theorem test_check_evenmod : statusAfter (exec .modexp (idleWith 1 1 0 1 3232)) = some 0x6A#32 := by decide +kernel
/-- K11. -/
theorem test_check_range : statusAfter (exec .montmul (idleWith 1 3233 1 0 3233)) = some 0x7A#32 := by decide +kernel
/-- K14: 17 rounds of the fixed table. -/
theorem test_check_rounds :
    statusAfter (exec .mrtest { idleWith 1 0 0 0 3233 with basesrc := false, rounds := 17#8 }) = some 0x8A#32 := by
  decide +kernel

/-! ### Bus, registers, steps (2.7 of the vectors, P7) -/

/-- B2. -/
theorem test_config_reads : answerAfter (State.reset.handle (rd State.reset.params 0x0004)) = some (.data 0x01100080#32) := by
  decide
/-- B5: SRST discards the other bits. -/
theorem test_srst :
    (next (State.reset.handle (wr State.reset.params 0x0008 0xFFFFFFFD#32))).map State.ctrlWord = some 0x00000002#32 := by decide
/-- B6: reserved bits are ignored. -/
theorem test_ctrl_write :
    (next (State.reset.handle (wr State.reset.params 0x0008 0x7FFFFFFD#32))).map State.ctrlWord = some 0x00000001#32 := by decide
/-- B7. -/
theorem test_len_write :
    (next (State.reset.handle (wr State.reset.params 0x0014 0xFFFF0005#32))).map State.len = some 5#16 := by decide
/-- B9. -/
theorem test_write_to_r : answerAfter (State.reset.handle (wr State.reset.params 0x5000 1#32)) = some .busError := by decide
/-- B10: word MAXW of A is unmapped; word MAXW - 1 is not. -/
theorem test_window_end :
    answerAfter (State.reset.handle (rd State.reset.params 0x1200)) = some .busError ∧
    answerAfter (State.reset.handle (rd State.reset.params 0x11FC)) = some (.data 0#32) := by decide
/-- B13: the three words of a 12-byte buffer. -/
theorem test_words_of_buffer :
    (List.range 3).map (operandWord (natOfBytes
      [0x00#8, 0x02#8, 0x5A#8, 0x5A#8, 0x5A#8, 0x5A#8, 0x5A#8, 0x5A#8, 0x5A#8, 0x5A#8, 0x00#8, 0x41#8]))
      = [0x5A5A0041#32, 0x5A5A5A5A#32, 0x00025A5A#32] := by decide +kernel
/-- P5: writing word 1 of E over 0 gives 2^40. -/
theorem test_operand_word_write : withOperandWord 0 1 0x00000100#32 = 2 ^ 40 := by decide +kernel
/-- B15: the write clears only DONE. -/
theorem test_status_w1c :
    statusAfter ({ State.reset with done := true, err := true, errCode := .len }.handle
      (wr State.reset.params 0x0010 0x00000002#32)) = some 0x38#32 := by decide
/-- P7: a write of A while busy gives STATUS 0x99. -/
theorem test_write_while_busy :
    statusAfter (waiting.handle (wr waiting.params 0x1000 7#32)) = some 0x99#32 := by decide +kernel
/-- P7: a NOP while busy gives STATUS 0x29. -/
theorem test_command_while_busy :
    statusAfter (waiting.handle (wr waiting.params 0x000C 0#32)) = some 0x29#32 := by decide +kernel
/-- The first step after reset on the word of MODINV accepts it with N = 0: MODZERO (40_command_lifecycle.md R62). -/
theorem test_step_runs_fetched_word : statusAfter (step (State.reset.withFetchWord 32 0x6)) = some 0x5A#32 := by decide +kernel
/-- The base table has NFIXED entries, and the fields have the widths of 00_scope.md R6. -/
theorem test_fixed_parameters :
    Config.fixedTable.length = Config.nfixed ∧ Config.busW = 32 ∧ Config.lenW = 16 ∧ Config.roundsW = 8 := by decide
/-- An access outside the window of 2^16 bytes never reaches the block (20_memory.md R36). -/
theorem test_outside_window :
    answerAfter (State.reset.handle (rd State.reset.params 0x10000)) = some .notSelected := by decide

/-- `wait` of an engine that has its last base: one poll finds BUSY = 1, the next the verdict (30_encoding.md R58; W1). -/
theorem test_wait_polls :
    (match wait Params.default
        { runningWith .mrtest 1 0 0 0 221 with rounds := 1#8, entropy := .answered 174 } [[.engineInternal], [.engine]] with
      | .done w t rest => decide (w = 0x06#32 ∧ t.r = 1 ∧ rest = [])
      | .pending _ => false
      | .busError _ => false
      | .stopped => false) = true := by decide +kernel
/-- K10 failed at accept; BUSY and WBUSY after a completion did not (40_command_lifecycle.md R66). -/
theorem test_failed_at_accept :
    failedAtAccept 0x6A#32 = true ∧ failedAtAccept 0x1A#32 = true ∧ failedAtAccept 0x8A#32 = true ∧
    failedAtAccept 0x06#32 = false ∧ failedAtAccept 0x2E#32 = false ∧ failedAtAccept 0x9E#32 = false := by decide

/-! ### Informative algorithms and host procedures (2.2 and 2.8 of the vectors) -/

theorem test_cios_constant : ciosConstant 3233 = 0x669F289F ∧ ciosConstant (2 ^ 61 - 1) = 1 := by decide +kernel
theorem test_cios_m1 : cios 5 7 3233 1 = 98 := by decide +kernel
theorem test_mont_pow_x1 : montPow 65 65537 3233 1 = 2790 := by decide +kernel

/-- The key of S1. -/
def key3233 : PrivateKey := { pub := { n := 3233, e := 65537 }, d := 2753, p := 61, q := 53 }

/-- The key of H3. -/
def key96 : PrivateKey where
  pub := { n := 0x900000000055800000000CAD, e := 65537 }
  d := 0x321B9DE46238D8AB2754DCED
  p := 0xC00000000037
  q := 0xC0000000003B

/-- H3: encryption with padding bytes 0x5A. -/
theorem test_encrypt_h3 :
    encrypt Params.default key96.pub [0x41#8] (List.replicate 8 0x5A#8)
      = .ok [0x5A#8, 0x75#8, 0x60#8, 0xB0#8, 0xC7#8, 0x22#8, 0xF6#8, 0x81#8, 0xCD#8, 0x96#8, 0xBE#8, 0xC4#8] := by
  decide +kernel
theorem test_decrypt_h5 :
    decrypt Params.default key3233 [0x07#8, 0x1E#8] = .err (.malformedBlock .leadingZero) := by decide +kernel
theorem test_decrypt_h6 :
    decrypt Params.default key3233 [0x06#8, 0xD8#8] = .err (.malformedBlock .missingTerminator) := by decide +kernel
theorem test_decrypt_h7 :
    decrypt Params.default key3233 [0x0A#8, 0xE6#8] = .err (.malformedBlock .blockType) := by decide +kernel
/-- H10: the only odd 2-bit candidate is 3 (a trivial candidate, so no base is drawn). -/
theorem test_generate_h10 :
    generate Params.default 4 0 0 { candidates := List.replicate 20 3, bases := [] } = .err .retriesExhausted := by
  decide +kernel
/-- H11: the key of S1 on the first attempt, whatever the bases. -/
theorem test_generate_h11 :
    generate Params.default 12 61 53 { candidates := [], bases := List.replicate 20 2 } = .ok key3233 := by decide +kernel

/-! ### Witnesses: the hypotheses of each obligation can be met together -/

/-- Bits 31:8 with their lowest bit set, and the first and last reserved OPCODE; bytes of a command with a rest, three bytes, and
an illegal word in bytes. -/
theorem witness_DecodeAndEncodeAgree :
    (0x00000100#32).extractLsb' 8 24 ≠ 0#24 ∧
    ((0x00000007#32).extractLsb' 8 24 = 0#24 ∧ 0x07 ≤ ((0x00000007#32).extractLsb' 0 8).toNat) ∧
    ((0x000000FF#32).extractLsb' 8 24 = 0#24 ∧ 0x07 ≤ ((0x000000FF#32).extractLsb' 0 8).toNat) ∧
    decodeBytes [0x06#8, 0x00#8, 0x00#8, 0x00#8, 0xAA#8] = .ok (.modinv, [0xAA#8]) ∧
    [0x06#8, 0x00#8, 0x00#8].length < 4 ∧ decode (0x00#8 ++ 0x00#8 ++ 0x01#8 ++ 0x03#8) = .error .rsvdNonZero := by decide

theorem witness_StepRunsDecodedCommand :
    (let s := State.reset.withFetchWord 32 6
     s.phase = .idle ∧ s.schedule = [wr s.params 0x000C 0x00000006#32] ∧ decode 0x00000006#32 = .ok .modinv) ∧
    (let s := runningWith .modexp 1 65 0 65537 3233
     s.phase = .running .modexp ∧ s.schedule = []) ∧
    (let s := { runningWith .modexp 1 65 0 65537 3233 with schedule := [.engine, .hardwareReset] }
     s.phase = .running .modexp ∧ s.schedule = .engine :: [.hardwareReset]) ∧
    (State.reset.phase = .idle ∧ decode (BitVec.ofNat 32 5) = .ok .mrtest) := by decide +kernel

theorem witness_IdleBlockWaits : State.reset.phase = .idle ∧ State.reset.entropy = .none ∧ State.reset.schedule = [] := by
  decide

theorem witness_CommandWriteIsAccept :
    waiting.phase = .running .mrtest ∧ State.reset.phase = .idle ∧
    decode 0x00000007#32 = .error .reservedOpcode ∧ decode 0x00000000#32 = .ok .nop ∧
    (decode 0x00000003#32 = .ok .modexp ∧ (idleWith 1 65 0 65537 3233).phase = .idle ∧
      checksOf .modexp (idleWith 1 65 0 65537 3233) = .none ∧ checksOf .modexp State.reset ≠ .none) := by decide +kernel

theorem witness_NopCompletesInAccept :
    State.reset.phase = .idle ∧ { State.reset with irqen := true }.irqen = true ∧ waiting.phase = .running .mrtest := by decide

/-- The modulus is the largest that LEN = 1 admits (M12), and the smallest, 1. -/
theorem witness_MontmulAcceptAndResult :
    (idleWith 1 5 7 0 3233).phase = .idle ∧
    (let s := runningWith .montmul 1 4294967294 4294967294 0 4294967295
     s.phase = .running .montmul ∧ s.n % 2 = 1) ∧
    (let s := runningWith .montmul 1 0 0 0 1
     s.phase = .running .montmul ∧ s.n % 2 = 1) := by decide +kernel

theorem witness_RsqAcceptAndResult :
    (idleWith 1 0 0 0 3233).phase = .idle ∧ (runningWith .rsq 1 0 0 0 3233).phase = .running .rsq := by decide

theorem witness_ModexpAcceptAndResult :
    (idleWith 1 65 0 65537 3233).phase = .idle ∧
    (let s := runningWith .modexp 1 7 0 0 1
     s.phase = .running .modexp ∧ 0 < s.n) := by decide +kernel

/-- W1 passes and W2 fails. -/
theorem witness_MrroundAcceptAndResult :
    (idleWith 1 174 0 0 221).phase = .idle ∧
    (let s := runningWith .mrround 1 174 0 0 221
     s.phase = .running .mrround ∧ millerRabin s.n s.a = true) ∧
    (let s := runningWith .mrround 1 137 0 0 221
     s.phase = .running .mrround ∧ millerRabin s.n s.a = false) := by decide +kernel

/-- One candidate for each verdict, at the edges: 3, 1, 4, 5, and 9 (T4). -/
theorem witness_MrtestWithoutDraws :
    (idleWith 1 0 0 0 3233).phase = .idle ∧
    ((fixedTest 10 1 3).phase = .running .mrtest ∧ (fixedTest 10 1 3).n = 3) ∧
    ((fixedTest 10 1 1).phase = .running .mrtest ∧ (fixedTest 10 1 1).n < 2) ∧
    (let s := fixedTest 10 1 4
     s.phase = .running .mrtest ∧ 3 < s.n ∧ s.n % 2 = 0) ∧
    (let s := fixedTest 16 1 5
     s.phase = .running .mrtest ∧ s.basesrc = false ∧ 4 < s.n ∧ s.n % 2 = 1 ∧
       ∀ a ∈ [2, 3, 5, 7, 11, 13, 17, 19, 23, 29, 31, 37, 41, 43, 47, 53].take s.rounds.toNat,
         millerRabin s.n a = true) ∧
    (let s := fixedTest 1 1 9
     s.phase = .running .mrtest ∧ s.basesrc = false ∧ 4 < s.n ∧ s.n % 2 = 1 ∧
       ∃ a ∈ [2, 3, 5, 7, 11, 13, 17, 19, 23, 29, 31, 37, 41, 43, 47, 53].take s.rounds.toNat,
         millerRabin s.n a = false) := by decide +kernel

/-- MRTEST of 221 with entropy bases, as the draws 174 and 137 of the vectors decide it. -/
def drawing (rounds : Nat) : State := { runningWith .mrtest 1 0 0 0 221 with rounds := BitVec.ofNat 8 rounds }

theorem witness_MrtestDrawnRound :
    ((drawing 2).phase = .running .mrtest ∧ (drawing 2).basesrc = true ∧ 4 < (drawing 2).n ∧ (drawing 2).n % 2 = 1) ∧
    (drawing 2).entropy = .none ∧ { drawing 2 with entropy := .requested }.entropy = .requested ∧
    millerRabin 221 137 = false ∧
    (millerRabin 221 174 = true ∧ (drawing 1).rounds.toNat ≤ (drawing 1).round + 1) ∧
    (millerRabin 221 174 = true ∧ (drawing 2).round + 1 < (drawing 2).rounds.toNat) := by decide +kernel

theorem witness_MrtestDrawnRun :
    (let s := drawing 2
     s.phase = .running .mrtest ∧ s.basesrc = true ∧ 4 < s.n ∧ s.n % 2 = 1 ∧ s.entropy = .none ∧ s.round = 0 ∧
       0 < s.rounds.toNat) ∧
    ([174, 174].length = (drawing 2).rounds.toNat ∧ (∀ a ∈ [174, 174], 2 ≤ a ∧ a ≤ (drawing 2).n - 2) ∧
      ∀ a ∈ [174, 174], millerRabin (drawing 2).n a = true) ∧
    ([174].length < (drawing 2).rounds.toNat ∧ (∀ a ∈ [174] ++ [2], 2 ≤ a ∧ a ≤ (drawing 2).n - 2) ∧
      (∀ a ∈ [174], millerRabin (drawing 2).n a = true) ∧ millerRabin (drawing 2).n 2 = false) := by decide +kernel

/-- The waiting state of program P7 meets the invariant. -/
theorem waiting_inv : waiting.Inv where
  params := by decide
  operands := by
    intro x
    have hx : waiting.op x < 2 ^ 12 := by cases x <;> decide
    have hw : 12 ≤ waiting.params.opw := by decide
    exact lt_of_lt_of_le hx (Nat.pow_le_pow_right (Nat.succ_pos 1) hw)
  err := by unfold State.ErrAgrees; decide
  running := by
    intro cur h
    injection h with h
    subst h
    exact ⟨by decide, by decide +kernel, rfl, rfl⟩
  request := fun _ => ⟨rfl, rfl, by decide, by decide, fun a h => by cases h⟩
  roundZero := fun _ => rfl

/-- The offers 1 and N - 1 are just outside `[2, N-2]`. -/
theorem witness_StarvedEngineTakesNoStep :
    waiting.Inv ∧ waiting.entropy = .requested ∧
    ∀ ev ∈ [Event.engine, .engineInternal, .entropy 1, .entropy 3232],
      ev = .engine ∨ ev = .engineInternal ∨ ∃ v, ev = .entropy v ∧ (v < 2 ∨ waiting.n - 2 < v) := by
  refine ⟨waiting_inv, rfl, fun ev h => ?_⟩
  simp only [List.mem_cons, List.not_mem_nil, or_false] at h
  rcases h with rfl | rfl | rfl | rfl
  · exact .inl rfl
  · exact .inr (.inl rfl)
  · exact .inr (.inr ⟨1, rfl, by decide⟩)
  · exact .inr (.inr ⟨3232, rfl, by decide⟩)

theorem witness_ModinvAcceptAndResult :
    (idleWith 1 3 0 0 8).phase = .idle ∧
    (let s := runningWith .modinv 1 0 0 0 1
     s.phase = .running .modinv ∧ 0 < s.n ∧ Nat.gcd (s.a % s.n) s.n = 1) ∧
    (let s := runningWith .modinv 1 2 0 0 4
     s.phase = .running .modinv ∧ 0 < s.n ∧ Nat.gcd (s.a % s.n) s.n ≠ 1) := by decide +kernel

/-- V12 (an inverse that is 0) and V11 (no inverse). -/
theorem witness_ModinvResultIsInverse :
    (let s := runningWith .modinv 1 0 0 0 1
     s.phase = .running .modinv ∧ 0 < s.n ∧
       ∃ t, exec .modinv s = .next t ∧ t.result = true ∧ t.r = 0) ∧
    (let s := runningWith .modinv 1 6 0 0 9
     s.phase = .running .modinv ∧ 0 < s.n ∧ ∃ t, exec .modinv s = .next t ∧ t.result = false) := by
  refine ⟨⟨rfl, by decide, _, exec_modinv_of_running _ _ rfl, ?_⟩, rfl, by decide, _, exec_modinv_of_running _ _ rfl, ?_⟩
  · decide +kernel
  · decide +kernel

theorem witness_ResetMeetsInvariant :
    Params.wellFormed { maxw := 2, base := 0 } = true ∧ Params.wellFormed { maxw := 1024, base := 0 } = true := by decide

/-- From the waiting state, an answer of the largest base. -/
theorem witness_StepKeepsInvariant :
    ∃ s t : State, s.Inv ∧ s.schedule = [.entropy 3231] ∧ step s = .next t ∧ t.entropy = .answered 3231 :=
  ⟨{ waiting with schedule := [.entropy 3231] }, { waiting with entropy := .answered 3231 },
    ⟨waiting_inv.params, waiting_inv.operands, waiting_inv.err,
      fun cur h => have hr := waiting_inv.running cur h
        ⟨hr.notNop, by cases cur <;> exact hr.checksPass, hr.notDone, hr.resultZero⟩,
      fun h => ⟨rfl, rfl, (waiting_inv.request h).candidate, (waiting_inv.request h).roundLeft, fun a h => (by cases h)⟩,
      waiting_inv.roundZero⟩, rfl, rfl, rfl⟩

theorem witness_CommandFrame :
    (∃ t, exec .modexp (idleWith 1 65 0 65537 3233) = .next t ∧ (idleWith 1 65 0 65537 3233).phase = .idle) ∧
    (∃ t, exec .modexp (runningWith .modexp 1 65 0 65537 3233) = .next t ∧
      (runningWith .modexp 1 65 0 65537 3233).phase = .running .modexp) :=
  ⟨⟨_, exec_of_idle _ _ (by decide) rfl, rfl⟩, _, exec_modexp_of_running _ _ rfl, rfl⟩

theorem witness_OnlyHostWritesOperands :
    (∃ t, waiting.handle .engineInternal = .next t) ∧ (∃ t, State.reset.handle .engine = .next t) ∧
      (∀ acc, Event.engineInternal ≠ .host acc) ∧ Event.engineInternal ≠ .hardwareReset ∧
      (∀ acc, Event.engine ≠ .host acc) ∧ Event.engine ≠ .hardwareReset :=
  ⟨⟨_, rfl⟩, ⟨_, rfl⟩, fun _ h => (by cases h), by decide, fun _ h => (by cases h), by decide⟩

/-- The waiting block at a hardware reset, and a word that is a soft reset. -/
theorem witness_ResetValues :
    waiting.params.wellFormed = true ∧ (∃ t, waiting.handle .hardwareReset = .next t) ∧
    (0x80000000#32).getLsbD 31 = true ∧ ∃ t, waiting.handle (wr waiting.params 0x0008 0x80000000#32) = .next t :=
  ⟨by decide, ⟨_, rfl⟩, by decide, _, rfl⟩

theorem witness_SoftAndHardwareReset :
    (0x80000000#32).getLsbD 31 = true ∧ waiting.phase ≠ .idle ∧
    ∃ (t : State) (acc : Access), ¬ acc.isSoftReset waiting.params ∧ waiting.handle (.host acc) = .next t :=
  ⟨by decide, by decide, waiting.respond (.data 0x2#32), { addr := 0x0008, width := .w32, kind := .read },
    fun h => h.2.2.elim fun _ h => (by cases h.1), rfl⟩

theorem witness_StatusRegister : State.reset.ErrAgrees ∧ ∃ t, step State.reset = .next t := by
  refine ⟨?_, State.reset, rfl⟩
  unfold State.ErrAgrees
  decide

theorem witness_CtrlRegister :
    ((0x7FFFFFFD#32).getLsbD 31 = false ∧ State.reset.phase = .idle ∧ waiting.phase ≠ .idle) ∧
    (0xFFFFFFFD#32).getLsbD 31 = true := by decide

/-- LEN = 0 and LEN = MAXW + 1. -/
theorem witness_LenAndRoundsRegisters :
    ((idleWith 0 0 0 0 0).phase = .idle ∧ (idleWith 0 0 0 0 0).len.toNat = 0) ∧
    ((idleWith 129 0 0 0 0).phase = .idle ∧ (idleWith 129 0 0 0 0).params.maxw < (idleWith 129 0 0 0 0).len.toNat) ∧
    Instr.modinv ≠ .nop := by decide

/-- Each cause of a bus error, at an edge of its range, and accesses that get none. -/
theorem witness_BusErrorsChangeNothing :
    busErrorCase State.reset { addr := 0x0010, width := .w16, kind := .read } 0x0010 ∧
    busErrorCase State.reset { addr := 0x0012, width := .w32, kind := .read } 0x0012 ∧
    busErrorCase State.reset { addr := 0x001C, width := .w32, kind := .read } 0x001C ∧
    busErrorCase State.reset { addr := 0x1200, width := .w32, kind := .read } 0x1200 ∧
    busErrorCase State.reset { addr := 0xFFFC, width := .w32, kind := .read } 0xFFFC ∧
    busErrorCase State.reset { addr := 0x0004, width := .w32, kind := .write 1#32 } 0x0004 ∧
    busErrorCase State.reset { addr := 0x5000, width := .w32, kind := .write 1#32 } 0x5000 ∧
    ¬ busErrorCase State.reset { addr := 0x0000, width := .w32, kind := .read } 0x0000 ∧
    ¬ busErrorCase State.reset { addr := 0x4000 + 4 * 127, width := .w32, kind := .write 1#32 } (0x4000 + 4 * 127) ∧
    0xFFFC < 2 ^ 16 ∧ 0x4000 + 4 * 127 = State.reset.params.base + (0x4000 + 4 * 127) := by
  have hm : State.reset.params.maxw = 128 := rfl
  have hb : State.reset.params.base = 0 := rfl
  simp [busErrorCase, unmappedOffset, hm, hb]

/-- A read at an edge of the address space. -/
theorem witness_ReadsChangeNothing :
    ({ addr := 0xFFFF, width := .w32, kind := .read } : Access).kind = .read ∧ State.reset.phase = .idle := by decide

/-- The first word of R and the last of N. -/
theorem witness_OperandWindows :
    ((0 < State.reset.params.maxw ∧ 127 < State.reset.params.maxw) ∧ State.reset.params.maxw ≤ 1024) ∧
    (OpReg.R ≠ .R ∨ State.reset.phase = .idle) ∧ (OpReg.N ≠ .R ∧ waiting.phase ≠ .idle) ∧ State.reset.phase = .idle := by
  decide

theorem witness_OperandIsSumOfWords : waiting.OperandsFit := waiting_inv.operands

theorem witness_WritesWhileBusy :
    waiting.phase ≠ .idle ∧ (OpReg.A ≠ .R ∧ 127 < waiting.params.maxw ∧ waiting.params.maxw ≤ 1024) ∧
    (0x00000001#32).getLsbD 31 = false ∧ (0x80000000#32).getLsbD 31 = true := by decide

theorem witness_RunningCommandUndisturbed :
    ∃ (s t : State) (acc : Access), s.phase ≠ .idle ∧ ¬ acc.isSoftReset s.params ∧ s.handle (.host acc) = .next t := by
  refine ⟨waiting, { waiting with response := .written, irqen := true },
    { addr := 0x0008, width := .w32, kind := .write 1#32 }, by decide, ?_, rfl⟩
  rintro ⟨-, -, v, hv, h31⟩
  injection hv with hv
  subst hv
  revert h31
  decide

theorem witness_ResultIndependentOfTraffic :
    ∃ (s : State) (events : List Event), s.phase = .running .modexp ∧ Instr.modexp ≠ .nop ∧ drawsNothing s .modexp ∧
      events.length = 3 ∧
      ∀ ev ∈ events, ev = .engineInternal ∨ (∃ v, ev = .entropy v) ∨ ∃ acc, ev = .host acc ∧ ¬ acc.isSoftReset s.params := by
  refine ⟨runningWith .modexp 1 65 0 65537 3233,
    [.engineInternal, .entropy 2, .host { addr := 0x1000, width := .w32, kind := .write 7#32 }], rfl, by decide,
    .inl (by decide), rfl, fun ev h => ?_⟩
  simp only [List.mem_cons, List.not_mem_nil, or_false] at h
  rcases h with rfl | rfl | rfl
  · exact .inl rfl
  · exact .inr (.inl ⟨2, rfl⟩)
  · exact .inr (.inr ⟨_, rfl, fun h => absurd h.2.1 (by decide)⟩)

/-- A command that is not MRTEST, and MRTEST of each kind that draws nothing. -/
theorem witness_EngineCompletesUndrawnCommand :
    (let s := runningWith .modinv 1 3 0 0 8
     s.phase = .running .modinv ∧ s.schedule = [] ∧ drawsNothing s .modinv) ∧
    (let s := fixedTest 10 1 5
     s.phase = .running .mrtest ∧ s.schedule = [] ∧ drawsNothing s .mrtest) ∧
    (let s := runningWith .mrtest 1 0 0 0 3
     s.phase = .running .mrtest ∧ s.schedule = [] ∧ drawsNothing s .mrtest) :=
  ⟨⟨rfl, rfl, .inl (by decide)⟩, ⟨rfl, rfl, .inr (.inl rfl)⟩, rfl, rfl, .inr (.inr (.inl (by decide)))⟩

/-- Program P8: IRQEN = 1, idle, with a command that passes its checks and one that does not; a running command, one that
completes; an illegal word; words of STATUS and CTRL; a busy block with a window to write; DONE = 1 with IRQEN = 0, which a CTRL
write raises, and IRQEN = 1 with DONE = 1, which a reset lowers. -/
theorem witness_InterruptLevel :
    (let s := { idleWith 1 65 0 65537 3233 with irqen := true, done := true }
     s.irqen = true ∧ s.phase = .idle ∧ Instr.modexp ≠ .nop ∧ checksOf .modexp s = .none) ∧
    (let s := { idleWith 1 65 0 65537 3232 with irqen := true }
     s.irqen = true ∧ s.phase = .idle ∧ checksOf .modexp s ≠ .none) ∧
    (let s := { runningWith .modinv 1 3 0 0 8 with irqen := true }
     s.irqen = true ∧ s.phase = .running .modinv ∧ drawsNothing s .modinv ∧
       ∃ t, exec .modinv s = .next t ∧ t.phase = .idle) ∧
    (decode 0x00000007#32 = .error .reservedOpcode ∧ (0x00000002#32).getLsbD 1 = true ∧
      ((0x00000000#32).getLsbD 31 = false ∧ (0x00000000#32).getLsbD 0 = false) ∧ (0x80000000#32).getLsbD 31 = true ∧
      ((0x00000001#32).getLsbD 31 = false ∧ (0x00000001#32).getLsbD 0 = true)) ∧
    (waiting.phase ≠ .idle ∧ OpReg.A ≠ .R ∧ 127 < waiting.params.maxw ∧ waiting.params.maxw ≤ 1024) ∧
    (let s := { State.reset with done := true }
     ∃ t, s.handle (wr s.params 0x0008 1#32) = .next t ∧ s.irq = false ∧ t.irq = true) ∧
    (let s := { State.reset with irqen := true, done := true }
     ∃ t, s.handle .hardwareReset = .next t ∧ s.irq = true ∧ t.irq = false) :=
  ⟨by decide +kernel, by decide +kernel, ⟨rfl, rfl, .inl (by decide), _, exec_modinv_of_running _ _ rfl, by decide +kernel⟩,
    by decide, by decide, ⟨_, rfl, by decide, by decide⟩, ⟨_, rfl, by decide, by decide⟩⟩

theorem witness_NoInterruptUntilEnabled :
    ∃ (s t : State) (events : List Event), s.irqen = false ∧
      (∀ acc, Event.host acc ∈ events → ¬ acc.enablesIrq s.params) ∧ s.runEvents events = .next t ∧ t.done = true := by
  refine ⟨State.reset, _, [cmd State.reset.params .nop], rfl, ?_, rfl, rfl⟩
  intro acc h
  rw [List.mem_singleton] at h
  injection h with h
  subst h
  exact fun h => absurd h.2.1 (by decide)

/-- A load of the largest value of one word, and of all 128 words. -/
theorem witness_LoadSequenceLoads :
    OpReg.A ≠ .R ∧ State.reset.phase = .idle ∧ State.reset.params.maxw ≤ 1024 ∧
    (0 < 1 ∧ 1 ≤ State.reset.params.maxw ∧ 4294967295 < 2 ^ (32 * 1) ∧ State.reset.op .A < 2 ^ (32 * 1)) ∧
    (0 < 128 ∧ 128 ≤ State.reset.params.maxw ∧ 1 < 2 ^ (32 * 128) ∧ State.reset.op .A < 2 ^ (32 * 128)) := by
  decide +kernel

theorem witness_StoreSequenceReadsR :
    State.reset.phase = .idle ∧ 128 ≤ State.reset.params.maxw ∧ State.reset.params.maxw ≤ 1024 := by decide

/-- The operands of program P2. -/
def p2Operands : OpReg → Nat
  | .A => 65
  | .B => 0
  | .E => 65537
  | .N => 3233
  | .R => 0

/-- Quiet traffic of each length: nothing moves before the accesses. -/
theorem quiet_replicate (k : Nat) : quietTraffic k (List.replicate k []) :=
  ⟨List.length_replicate, fun batch h ev he => by rw [List.eq_of_mem_replicate h] at he; cases he⟩

/-- Two polls: internal steps and an offer, then the completing step between others. -/
def pollTraffic : Traffic := [[.engineInternal, .entropy 7], [.engineInternal, .engine, .engine]]

theorem pollTraffic_completing : completingTraffic pollTraffic := by
  refine ⟨[[.engineInternal, .entropy 7]], [.engineInternal, .engine, .engine], rfl, ?_, by decide, by decide⟩
  intro batch h ev he
  simp only [pollTraffic, List.mem_cons, List.not_mem_nil, or_false] at h
  rcases h with rfl | rfl
  · simp only [List.mem_cons, List.not_mem_nil, or_false] at he
    rcases he with rfl | rfl <;> exact ⟨fun _ h => (by cases h), by decide⟩
  · simp only [List.mem_cons, List.not_mem_nil, or_false] at he
    rcases he with rfl | rfl | rfl <;> exact ⟨fun _ h => (by cases h), by decide⟩

/-- An idle state with small operands meets the invariant. -/
theorem idleWith_inv (len a b e n : Nat) (h : a < 2 ^ 32 ∧ b < 2 ^ 32 ∧ e < 2 ^ 32 ∧ n < 2 ^ 32) : (idleWith len a b e n).Inv where
  params := show Params.default.wellFormed = true by decide
  operands := by
    have hw : 2 ^ 32 ≤ 2 ^ (idleWith len a b e n).params.opw := Nat.pow_le_pow_right (Nat.succ_pos 1) (show 32 ≤ Params.default.opw by decide)
    intro x
    cases x
    · exact lt_of_lt_of_le h.1 hw
    · exact lt_of_lt_of_le h.2.1 hw
    · exact lt_of_lt_of_le h.2.2.1 hw
    · exact lt_of_lt_of_le h.2.2.2 hw
    · exact lt_of_lt_of_le (by decide : 0 < 2 ^ 32) hw
  err := show State.reset.err = false ↔ State.reset.errCode = .none by decide
  running := fun _ hc => by cases hc
  request := fun he => absurd rfl he
  roundZero := fun _ => rfl

/-- Program P2, where the block still holds wider operands of an earlier call. -/
theorem witness_CallModexpOnTheBus :
    (idleWith 1 4294967295 0 4294967295 4294967295).Inv ∧ (idleWith 1 4294967295 0 4294967295 4294967295).phase = .idle ∧
    hostLen (max (p2Operands .A) (max (p2Operands .E) (p2Operands .N))) = 1 ∧ 1 ≤ Params.default.maxw ∧
    p2Operands .N % 2 = 1 ∧ quietTraffic (3 * Params.default.maxw + 2) (List.replicate (3 * 128 + 2) []) ∧
    completingTraffic pollTraffic ∧ quietTraffic (1 + 1) (List.replicate (1 + 1) []) :=
  ⟨idleWith_inv _ _ _ _ _ (by decide), rfl, by decide +kernel, by decide, by decide, quiet_replicate _, pollTraffic_completing,
    quiet_replicate _⟩

/-- Program P4. -/
theorem witness_ModmulProgramMultiplies :
    (let s := idleWith 1 65 66 0 3233
     s.Inv ∧ s.phase = .idle ∧ 0 < s.len.toNat ∧ s.len.toNat ≤ s.params.maxw ∧ s.n % 2 = 1 ∧
       s.n < 2 ^ (32 * s.len.toNat) ∧ s.a < s.n ∧ s.b < s.n) ∧
    quietTraffic 1 (List.replicate 1 []) ∧ completingTraffic pollTraffic ∧
    quietTraffic (2 * 1 + 1) (List.replicate (2 * 1 + 1) []) :=
  ⟨⟨idleWith_inv _ _ _ _ _ (by decide), rfl, by decide, by decide, by decide, by decide +kernel, by decide, by decide⟩,
    quiet_replicate _, pollTraffic_completing, quiet_replicate _⟩

theorem witness_MontgomeryIdentities : 3233 % 2 = 1 ∧ 65 < 3233 ∧ 3232 < 3233 ∧ 1 < 3233 := by decide

theorem witness_CiosRefinesMontgomeryProduct :
    4294967295 % 2 = 1 ∧ 4294967295 < 2 ^ (32 * 1) ∧ 4294967294 < 4294967295 := by decide

theorem witness_MontgomeryLadderRefinesModexp : 3233 % 2 = 1 := by decide

/-- Program P2 with the key of S1. -/
theorem witness_RsaRoundTrip :
    ∃ s t u v : State, Nat.Prime 61 ∧ Nat.Prime 53 ∧ 61 ≠ 53 ∧ 65537 * 2753 % ((61 - 1) * (53 - 1)) = 1 ∧ 65 < 61 * 53 ∧
      s.phase = .running .modexp ∧ s.a = 65 ∧ s.e = 65537 ∧ s.n = 61 * 53 ∧ exec .modexp s = .next t ∧
      u.phase = .running .modexp ∧ u.a = t.r ∧ u.e = 2753 ∧ u.n = 61 * 53 ∧ exec .modexp u = .next v :=
  ⟨runningWith .modexp 1 65 0 65537 3233, _,
    runningWith .modexp 1 (powMod 65 65537 3233) 0 2753 3233, _, by norm_num, by norm_num, by decide, by decide, by decide,
    rfl, rfl, rfl, rfl, exec_modexp_of_running _ _ rfl, rfl, rfl, rfl, rfl, exec_modexp_of_running _ _ rfl⟩

theorem witness_PrimeAlwaysPasses :
    Nat.Prime 61 ∧
    (let s := runningWith .mrround 1 2 0 0 61
     s.n = 61 ∧ s.phase = .running .mrround ∧ ∃ t, exec .mrround s = .next t) ∧
    (let s := { runningWith .mrtest 1 0 0 0 61 with entropy := .answered 59, round := 9 }
     s.n = 61 ∧ s.phase = .running .mrtest ∧ ∃ t, exec .mrtest s = .next t ∧ t.phase = .idle) := by
  refine ⟨by norm_num, ⟨rfl, rfl, _, exec_mrround_of_running _ _ rfl⟩, rfl, rfl, _, exec_mrtest_of_running _ _ rfl, ?_⟩
  decide +kernel

/-- B12, and a buffer of no bytes. -/
theorem witness_BigEndianBuffers : 2790 < 256 ^ 2 ∧ 0 < 256 ^ 0 ∧ 1 < 2 := by decide

/-- H1, H3 and H4. -/
theorem witness_CodecLengths :
    modulusBytes key3233.pub.n < ([] : List Byte).length + 11 ∧
    (∃ c, encrypt Params.default key96.pub [0x41#8] (List.replicate 8 0x5A#8) = .ok c) ∧
    [0x07#8].length ≠ modulusBytes key3233.pub.n :=
  ⟨by decide +kernel, ⟨_, test_encrypt_h3⟩, by decide +kernel⟩

theorem witness_RecoveredBlocks :
    (∀ x ∈ [0x01#8, 0xFF#8], x ≠ 0x00#8) ∧ 0x02#8 ≠ 0x00#8 ∧ 0x41#8 ≠ 0x02#8 := by decide

theorem witness_KeyGenerationRefusals : (0 : Int) ≤ 0 ∧ (-5 : Int) ≤ 0 ∧ (1 : Int) ≤ 1 ∧ (3 : Int) ≤ 3 := by decide

/-- A key of two primes with room for a message: 2^89 - 1 and 3 give a modulus of 91 bits, 12 bytes. -/
def keyMersenne : PrivateKey where
  pub := { n := 3 * (2 ^ 89 - 1), e := 65537 }
  d := inverseMod 65537 (2 * (2 ^ 89 - 2))
  p := 3
  q := 2 ^ 89 - 1

theorem prime_mersenne_89 : Nat.Prime (2 ^ 89 - 1) :=
  show (mersenne 89).Prime from lucas_lehmer_sufficiency _ (by norm_num) (by norm_num)

theorem witness_DecryptUndoesEncrypt :
    keyMersenne.p.Prime ∧ keyMersenne.q.Prime ∧ keyMersenne.p ≠ keyMersenne.q ∧
    keyMersenne.pub.n = keyMersenne.p * keyMersenne.q ∧
    keyMersenne.pub.e * keyMersenne.d % ((keyMersenne.p - 1) * (keyMersenne.q - 1)) = 1 ∧
    hostLen (max keyMersenne.d keyMersenne.pub.n) ≤ Params.default.maxw ∧
    ∃ c, encrypt Params.default keyMersenne.pub [0x41#8] (List.replicate 8 0x5A#8) = .ok c := by
  refine ⟨show Nat.Prime 3 by norm_num, prime_mersenne_89, by decide +kernel, by decide +kernel, by decide +kernel,
    by decide +kernel,
    bytesOfNat 12 (powMod (natOfBytes (encryptionBlock (List.replicate 8 0x5A#8) [0x41#8])) 65537 keyMersenne.pub.n), ?_⟩
  decide +kernel

/-- H11, where the totient is 3120. -/
theorem witness_GeneratedKeysAreSound :
    (∃ rnd, generate Params.default 12 61 53 rnd = .ok key3233) ∧ 1 < (key3233.p - 1) * (key3233.q - 1) :=
  ⟨⟨_, test_generate_h11⟩, by decide⟩

/-- The call of program P2, where the checks pass and nothing is drawn; and the same call with an even modulus. -/
theorem witness_CallOnTheBus :
    ((idleWith 0 0 0 0 0).Inv ∧ (idleWith 0 0 0 0 0).phase = .idle ∧ Instr.modexp ≠ .nop ∧
      (∀ x ∈ operandsRead .modexp, p2Operands x < 2 ^ 32) ∧ 32 ≤ (idleWith 0 0 0 0 0).params.opw ∧
      hostLen (largestOperand .modexp p2Operands) = 1) ∧
    checksOf .modexp (loadedFor (idleWith 0 0 0 0 0) .modexp p2Operands 1) = .none ∧
    drawsNothing (loadedFor (idleWith 0 0 0 0 0) .modexp p2Operands 1) .modexp ∧
    checksOf .modexp (loadedFor (idleWith 0 0 0 0 0) .modexp (fun x => p2Operands x + 1) 1) ≠ .none ∧
    (quietTraffic (3 * 128 + 2) (List.replicate (3 * 128 + 2) []) ∧ completingTraffic pollTraffic ∧
      quietTraffic (1 + 1) (List.replicate (1 + 1) []) ∧ quietTraffic 2 (List.replicate 2 [])) :=
  ⟨⟨idleWith_inv _ _ _ _ _ (by decide), rfl, by decide, by decide, by decide, by decide +kernel⟩, by decide +kernel,
    .inl (by decide), by decide +kernel, quiet_replicate _, pollTraffic_completing, quiet_replicate _, quiet_replicate _⟩

/-- Two draws over three reads of STATUS, for the candidate 221 of W1 and W2: 174 passes and 2 fails. -/
theorem witness_CallMrtestDraws :
    (let s := { idleWith 0 0 0 0 0 with rounds := 2#8 }
     s.Inv ∧ s.phase = .idle ∧ s.basesrc = true ∧ 0 < s.rounds.toNat ∧ [174, 174].length = s.rounds.toNat ∧
       ([174] ++ [2]).length ≤ s.rounds.toNat) ∧
    (4 < 221 ∧ 221 % 2 = 1 ∧ 221 < 2 ^ 32 ∧ hostLen 221 = 1) ∧
    ([[.engineInternal, .engine, .engineInternal], [.entropy 174, .engineInternal, .engine]] ++ [[.entropy 2, .engine]] :
      Traffic).flatten.filter (fun ev => decide (ev ≠ .engineInternal)) = drawEvents ([174] ++ [2]) ∧
    ([[.engine], [.entropy 174]] ++ [[.engine, .entropy 174, .engineInternal, .engine]] :
      Traffic).flatten.filter (fun ev => decide (ev ≠ .engineInternal)) = drawEvents [174, 174] ∧
    (Event.engine ∈ [Event.entropy 2, .engine] ∧
      Event.engine ∈ [Event.engine, .entropy 174, .engineInternal, .engine]) ∧
    ((∀ a ∈ [174, 174, 2], 2 ≤ a ∧ a ≤ 221 - 2) ∧ millerRabin 221 174 = true ∧ millerRabin 221 2 = false) ∧
    (quietTraffic (128 + 2) (List.replicate (128 + 2) []) ∧ quietTraffic (1 + 1) (List.replicate (1 + 1) [])) := by
  refine ⟨⟨?_, rfl, rfl, by decide, by decide, by decide⟩, by decide +kernel, by decide, by decide, by decide,
    by decide +kernel, quiet_replicate _, quiet_replicate _⟩
  have h := idleWith_inv 0 0 0 0 0 (by decide)
  exact ⟨h.params, fun x => by cases x <;> exact h.operands .A, h.err, fun _ hc => (by cases hc), fun he => absurd rfl he,
    fun _ => rfl⟩

/-- An idle block, an undrawn running command, and the waiting engine of program P7 with offers just outside `[2, N-2]`. -/
theorem witness_WaitPollsUntilIdle :
    ((idleWith 1 0 0 0 0).Inv ∧ (idleWith 1 0 0 0 0).phase = .idle ∧ quiet [Event.engine, .entropy 2]) ∧
    (let s := runningWith .modinv 1 3 0 0 8
     s.Inv ∧ s.phase = .running .modinv ∧ drawsNothing s .modinv ∧ completingTraffic pollTraffic) ∧
    (waiting.Inv ∧ waiting.entropy = .requested ∧
      ∀ batch ∈ [[Event.engine, .entropy 1], [.engineInternal, .entropy 3232]], ∀ ev ∈ batch,
        ev = .engine ∨ ev = .engineInternal ∨ ∃ v, ev = .entropy v ∧ (v < 2 ∨ waiting.n - 2 < v)) := by
  refine ⟨⟨idleWith_inv _ _ _ _ _ (by decide), rfl, ?_⟩, ⟨?_, rfl, .inl (by decide), pollTraffic_completing⟩, waiting_inv, rfl, ?_⟩
  · intro ev h
    simp only [List.mem_cons, List.not_mem_nil, or_false] at h
    rcases h with rfl | rfl <;> exact ⟨fun _ h => (by cases h), by decide⟩
  · have h := idleWith_inv 1 3 0 0 8 (by decide)
    refine ⟨h.params, fun x => ?_, h.err, fun cur hc => ?_, fun he => absurd rfl he, fun _ => rfl⟩
    · cases x
      · exact h.operands .A
      · exact h.operands .B
      · exact h.operands .E
      · exact h.operands .N
      · exact h.operands .R
    · injection hc with hc
      subst hc
      exact ⟨by decide, by decide +kernel, rfl, rfl⟩
  · intro batch hb ev he
    simp only [List.mem_cons, List.not_mem_nil, or_false] at hb
    rcases hb with rfl | rfl <;> simp only [List.mem_cons, List.not_mem_nil, or_false] at he <;> rcases he with rfl | rfl
    · exact .inl rfl
    · exact .inr (.inr ⟨1, rfl, by decide⟩)
    · exact .inr (.inl rfl)
    · exact .inr (.inr ⟨3232, rfl, by decide⟩)

/-- M6 and M7, and the smallest odd modulus above 1. -/
theorem witness_TomontAndFrommont :
    (let s := idleWith 1 716 4294967295 0 3233
     s.Inv ∧ s.phase = .idle ∧ 0 < s.len.toNat ∧ s.len.toNat ≤ s.params.maxw ∧ s.n % 2 = 1 ∧
       s.n < 2 ^ (32 * s.len.toNat) ∧ s.a < s.n ∧ s.b < 2 ^ (32 * s.len.toNat) ∧ 1 < s.n) ∧
    (let s := idleWith 1 2 0 0 3
     s.Inv ∧ s.n % 2 = 1 ∧ s.a < s.n ∧ 1 < s.n) ∧
    (completingTraffic pollTraffic ∧ quietTraffic 1 (List.replicate 1 []) ∧
      quietTraffic (2 * 1 + 1) (List.replicate (2 * 1 + 1) []) ∧ quietTraffic (1 + 1) (List.replicate (1 + 1) [])) :=
  ⟨⟨idleWith_inv _ _ _ _ _ (by decide), rfl, by decide, by decide, by decide, by decide +kernel, by decide, by decide +kernel,
      by decide⟩,
    ⟨idleWith_inv _ _ _ _ _ (by decide), by decide, by decide, by decide⟩, pollTraffic_completing, quiet_replicate _,
    quiet_replicate _, quiet_replicate _⟩

/-- A window that starts above 0: the bytes just below and just above it. -/
theorem witness_OutsideWindowChangesNothing :
    (let s := State.resetOf { maxw := 2, base := 0x40000000 }
     0x3FFFFFFF < s.params.base ∧ s.params.base + 2 ^ 16 ≤ 0x40010000) ∧
    answerAfter ((State.resetOf { maxw := 2, base := 0x40000000 }).handle
      (.host { addr := 0x40010000, width := .w32, kind := .write 1#32 })) = some .notSelected := by decide

end Sys2Proof.Tests
end

/-! SUPPORT. Proofs about the state of the block (10_state.md): the accesses to the control registers, the resets, what each
action leaves unchanged, and the invariant. -/

namespace Sys2Proof.Machine

/-! ### Steps and engine events -/

theorem exists_running (s : State) (hp : s.phase ≠ .idle) : ∃ cur, s.phase = .running cur := by
  cases hc : s.phase with
  | idle => exact absurd hc hp
  | running cur => exact ⟨cur, rfl⟩

theorem engineStep_cases (s t : State) (h : s.engineStep = .next t) :
    (s.phase = .idle ∧ t = s) ∨ ∃ cur, s.phase = .running cur ∧ exec cur s = .next t := by
  unfold State.engineStep at h
  cases hp : s.phase with
  | idle =>
    rw [hp] at h
    injection h with h
    exact .inl ⟨rfl, h.symm⟩
  | running cur =>
    rw [hp] at h
    exact .inr ⟨cur, rfl, h⟩

theorem internalStep_cases (s : State) : s.internalStep = s.scribble ∨ s.internalStep = s := by
  unfold State.internalStep
  split
  · exact .inl rfl
  · exact .inr rfl

/-- An offer answers an outstanding request with a base of `[2, N-2]`, or changes nothing (60_exceptions.md R100). -/
theorem offerEntropy_cases (s : State) (v : Nat) :
    (s.entropy = .requested ∧ 2 ≤ v ∧ v + 2 ≤ s.n ∧ s.offerEntropy v = { s with entropy := .answered v }) ∨
      s.offerEntropy v = s := by
  unfold State.offerEntropy
  split
  · rename_i h
    rw [State.waiting, ← Bool.decide_and, decide_eq_true_iff] at h
    obtain ⟨hwaiting, hlow, hhigh⟩ := h
    exact .inl ⟨hwaiting, hlow, hhigh, rfl⟩
  · exact .inr rfl

/-- What every event keeps, and what does not speak of the events still to come, every step keeps. -/
theorem step_preserves (P : State → Prop) (hschedule : ∀ s rest, P s → P { s with schedule := rest })
    (hhandle : ∀ s t ev, P s → s.handle ev = .next t → P t) (s t : State) (hs : P s) (h : step s = .next t) : P t := by
  cases hl : s.schedule with
  | nil =>
    rw [step_of_nil s hl] at h
    exact hhandle s t .engine hs h
  | cons ev rest =>
    rw [step_of_cons s ev rest hl] at h
    exact hhandle _ t ev (hschedule s rest hs) h

/-! ### What an action of a command leaves (10_state.md R19, 40_command_lifecycle.md R63, R65) -/

/-- Settles O22: the accept, the completion and the drawing step of MRTEST, case by case. -/
theorem commandFrame : Obligations.CommandFrame := by
  unfold Obligations.CommandFrame
  intro i s t h
  obtain ⟨hp, -, rfl⟩ | ⟨hp, -, rfl⟩ | ⟨c, hp, ⟨-, rfl⟩ | ⟨-, v, f, rfl⟩ | ⟨-, rfl⟩⟩ := exec_cases s i t h
  · simp [hp]
  · by_cases hc : checksOf i s = .none
    · simp [hp, hc, accept_of_pass]
    · simp [hp, accept_of_fail s i _ hc]
  · simp [hp]
  · simp [hp]
  · obtain ⟨f, he⟩ | ⟨-, -, ⟨-, he⟩ | ⟨-, he⟩ | ⟨a, -, -, he⟩⟩ := mrtestEngine_cases s <;> simp [hp, he]

/-- An accept keeps R (40_command_lifecycle.md R63). -/
theorem exec_r_of_idle (i : Instr) (s t : State) (hp : s.phase = .idle) (h : exec i s = .next t) : t.r = s.r := by
  obtain ⟨-, -, -, -, -, -, -, -, -, -, -, haccept, -⟩ := commandFrame i s t h
  exact (haccept hp).1

/-- An engine step keeps LASTCMD, ERR and ERRCODE (40_command_lifecycle.md R65). -/
theorem exec_status_of_running (i c : Instr) (s t : State) (hp : s.phase = .running c) (h : exec i s = .next t) :
    t.lastCmd = s.lastCmd ∧ t.err = s.err ∧ t.errCode = s.errCode := by
  obtain ⟨-, -, -, -, -, -, -, -, -, -, -, -, hengine⟩ := commandFrame i s t h
  exact hengine c hp

/-- Settles O23: an engine event is an action of the running command or nothing, an internal step changes only R, and an offer
only the entropy port. -/
theorem onlyHostWritesOperands : Obligations.OnlyHostWritesOperands := by
  unfold Obligations.OnlyHostWritesOperands
  intro s t ev h hhost hreset
  cases ev with
  | host acc => exact absurd rfl (hhost acc)
  | hardwareReset => exact absurd rfl hreset
  | engine =>
    obtain ⟨-, rfl⟩ | ⟨cur, hp, hexec⟩ := engineStep_cases s t h
    · simp
    · obtain ⟨ha, hb, he, hn, hlen, hrounds, hirqen, hbasesrc, -⟩ := commandFrame cur s t hexec
      obtain ⟨hlast, -, -⟩ := exec_status_of_running cur cur s t hp hexec
      exact ⟨ha, hb, he, hn, hlen, hrounds, hbasesrc, hirqen, hlast⟩
  | engineInternal =>
    injection h with h
    subst h
    obtain he | he := internalStep_cases s <;> simp [he]
  | entropy v =>
    injection h with h
    subst h
    obtain ⟨-, -, -, he⟩ | he := offerEntropy_cases s v <;> simp [he]

/-! ### ERR and ERRCODE agree (10_state.md R28) -/

theorem State.ErrAgrees.congr {s t : State} (h : s.ErrAgrees) (herr : t.err = s.err) (hcode : t.errCode = s.errCode) :
    t.ErrAgrees := by
  rw [State.ErrAgrees, herr, hcode]
  exact h

theorem resetOf_errAgrees (p : Params) : (State.resetOf p).ErrAgrees := by
  simp [State.ErrAgrees]

theorem setErr_errAgrees (s : State) (c : ErrCode) (hc : c ≠ .none) : (s.setErr c).ErrAgrees := by
  simp [State.ErrAgrees, hc]

theorem raiseError_errAgrees (s : State) (c : ErrCode) (hc : c ≠ .none) : (s.raiseError c).ErrAgrees := by
  simp [State.ErrAgrees, hc]

theorem beginAccept_errAgrees (s : State) (w : Word) : (s.beginAccept w).ErrAgrees := by
  simp [State.ErrAgrees]

theorem accept_errAgrees (s : State) (i : Instr) (c : ErrCode) : (s.accept i c).ErrAgrees := by
  by_cases hc : c = .none
  · subst hc
    exact (beginAccept_errAgrees s (encode i)).congr rfl rfl
  · rw [accept_of_fail s i c hc]
    exact raiseError_errAgrees _ c hc

theorem exec_errAgrees (i : Instr) (s t : State) (hs : s.ErrAgrees) (h : exec i s = .next t) : t.ErrAgrees := by
  obtain ⟨-, -, rfl⟩ | ⟨-, -, rfl⟩ | ⟨c, hp, -⟩ := exec_cases s i t h
  · exact (beginAccept_errAgrees s (encode .nop)).congr rfl rfl
  · exact accept_errAgrees s i _
  · obtain ⟨-, herr, hcode⟩ := exec_status_of_running i c s t hp h
    exact hs.congr herr hcode

theorem presentCommand_errAgrees (s t : State) (w : Word) (hs : s.ErrAgrees) (h : s.presentCommand w = .next t) :
    t.ErrAgrees := by
  obtain ⟨c, -, rfl⟩ | ⟨-, i, -, hexec⟩ | ⟨-, rfl⟩ := presentCommand_cases s w t h
  · exact setErr_errAgrees s .busy (by decide)
  · exact exec_errAgrees i s t hs hexec
  · exact raiseError_errAgrees _ .badop (by decide)

/-- A CTRL write resets the block, or it changes IRQEN and, while idle, BASESRC (10_state.md R26). -/
theorem writeCtrl_cases (s : State) (v : Word) :
    s.writeCtrl v = s.resetBlock ∨
      (s.phase = .idle ∧ s.writeCtrl v = { s with irqen := v.getLsbD 0, basesrc := v.getLsbD 1 }) ∨
      s.writeCtrl v = { s with irqen := v.getLsbD 0 } := by
  cases hv : v.getLsbD 31 with
  | true => exact .inl (writeCtrl_of_srst s v hv)
  | false =>
    by_cases hp : s.phase = .idle
    · exact .inr (.inl ⟨hp, writeCtrl_of_idle s v hv hp⟩)
    · obtain ⟨c, hc⟩ := exists_running s hp
      exact .inr (.inr (writeCtrl_of_running s v c hv hc))

/-- A STATUS write by its two W1C bits (10_state.md R28). -/
theorem writeStatus_eq (s : State) (v : Word) :
    s.writeStatus v =
      { s with
        done := if v.getLsbD 1 then false else s.done
        err := if v.getLsbD 3 then false else s.err
        errCode := if v.getLsbD 3 then .none else s.errCode } := by
  unfold State.writeStatus
  cases v.getLsbD 1 <;> cases v.getLsbD 3 <;> simp

theorem writeStatus_errAgrees (s : State) (v : Word) (hs : s.ErrAgrees) : (s.writeStatus v).ErrAgrees := by
  rw [writeStatus_eq]
  cases v.getLsbD 3 with
  | true => exact iff_of_true rfl rfl
  | false => exact hs.congr rfl rfl

/-- A write of an operand, LEN or ROUNDS is dropped with WBUSY while busy (20_memory.md R43). -/
theorem droppedWhileBusy_errAgrees (s t : State) (ht : t.ErrAgrees) :
    (if s.busy then s.setErr .wbusy else t).ErrAgrees := by
  split
  · exact setErr_errAgrees s .wbusy (by decide)
  · exact ht

theorem handle_host_errAgrees (s t : State) (acc : Access) (hs : s.ErrAgrees) (h : s.handle (.host acc) = .next t) :
    t.ErrAgrees := by
  obtain ⟨x, rfl⟩ | rfl | ⟨v, -, -, -, rfl⟩ | ⟨w, -, hw⟩ | ⟨v, -, rfl⟩ | ⟨v, rfl⟩ | ⟨v, rfl⟩ | ⟨x, j, v, -, -, rfl⟩ :=
    handle_host_cases s acc t h
  · exact hs.congr rfl rfl
  · exact hs.congr rfl rfl
  · obtain he | ⟨-, he⟩ | he := writeCtrl_cases (s.respond .written) v <;> rw [he]
    · exact (resetOf_errAgrees s.params).congr rfl rfl
    · exact hs.congr rfl rfl
    · exact hs.congr rfl rfl
  · exact presentCommand_errAgrees (s.respond .written) t w (hs.congr rfl rfl) hw
  · exact writeStatus_errAgrees _ v (hs.congr rfl rfl)
  · exact droppedWhileBusy_errAgrees _ _ (hs.congr rfl rfl)
  · exact droppedWhileBusy_errAgrees _ _ (hs.congr rfl rfl)
  · exact droppedWhileBusy_errAgrees _ _ (hs.congr (by simp) (by simp))

theorem handle_errAgrees (s t : State) (ev : Event) (hs : s.ErrAgrees) (h : s.handle ev = .next t) : t.ErrAgrees := by
  cases ev with
  | host acc => exact handle_host_errAgrees s t acc hs h
  | engine =>
    obtain ⟨-, rfl⟩ | ⟨cur, -, hexec⟩ := engineStep_cases s t h
    · exact hs
    · exact exec_errAgrees cur s t hs hexec
  | engineInternal =>
    injection h with h
    subst h
    obtain he | he := internalStep_cases s <;> rw [he]
    · exact hs.congr rfl rfl
    · exact hs
  | entropy v =>
    injection h with h
    subst h
    obtain ⟨-, -, -, he⟩ | he := offerEntropy_cases s v <;> rw [he]
    · exact hs.congr rfl rfl
    · exact hs
  | hardwareReset =>
    injection h with h
    subst h
    exact (resetOf_errAgrees s.params).congr rfl rfl

theorem step_errAgrees (s t : State) (hs : s.ErrAgrees) (h : step s = .next t) : t.ErrAgrees :=
  step_preserves State.ErrAgrees (fun _ _ hs => hs.congr rfl rfl) handle_errAgrees s t hs h

/-! ### Same inputs: what a command reads (20_memory.md R48) -/

/-- `t` holds the parameters, operands and settings that the checks and the running command read in `s`. The proofs are `rfl`
where `t` is an update of other fields. -/
structure State.SameInputs (s t : State) : Prop where
  params : t.params = s.params := by rfl
  a : t.a = s.a := by rfl
  b : t.b = s.b := by rfl
  e : t.e = s.e := by rfl
  n : t.n = s.n := by rfl
  len : t.len = s.len := by rfl
  rounds : t.rounds = s.rounds := by rfl
  basesrc : t.basesrc = s.basesrc := by rfl

theorem exec_sameInputs (i : Instr) (s t : State) (h : exec i s = .next t) : s.SameInputs t := by
  obtain ⟨ha, hb, he, hn, hlen, hrounds, -, hbasesrc, hparams, -⟩ := commandFrame i s t h
  exact ⟨hparams, ha, hb, he, hn, hlen, hrounds, hbasesrc⟩

/-- The checks of a command read only its inputs (40_command_lifecycle.md R62). -/
theorem State.SameInputs.checksOf_eq {s t : State} (h : s.SameInputs t) (i : Instr) : checksOf i t = checksOf i s := by
  cases s
  cases t
  obtain ⟨hparams, ha, hb, he, hn, hlen, hrounds, hbasesrc⟩ := h
  dsimp only at hparams ha hb he hn hlen hrounds hbasesrc
  subst hparams ha hb he hn hlen hrounds hbasesrc
  cases i <;> rfl

theorem State.SameInputs.operandsFit {s t : State} (h : s.SameInputs t) (hs : s.OperandsFit)
    (hr : t.r < 2 ^ s.params.opw) : t.OperandsFit := by
  intro x
  rw [h.params]
  cases x with
  | A => rw [State.op_A, h.a]; exact hs .A
  | B => rw [State.op_B, h.b]; exact hs .B
  | E => rw [State.op_E, h.e]; exact hs .E
  | N => rw [State.op_N, h.n]; exact hs .N
  | R => exact hr

/-! ### What passed checks say (40_command_lifecycle.md R62) -/

/-- When no check fails, every check passes. -/
theorem firstFailure_eq_none (checks : List (Bool × ErrCode)) (hcodes : ∀ p ∈ checks, p.2 ≠ .none)
    (h : firstFailure checks = .none) : ∀ p ∈ checks, p.1 = false := by
  induction checks with
  | nil => simp
  | cons p rest ih =>
    obtain ⟨failed, c⟩ := p
    rw [List.forall_mem_cons] at hcodes ⊢
    rw [firstFailure_cons] at h
    cases failed with
    | true => exact absurd h hcodes.1
    | false => exact ⟨rfl, ih hcodes.2 h⟩

/-- A command with a MODZERO check runs with a positive modulus. -/
theorem modulus_pos_of_checks (s : State) (i : Instr) (hi : i ∈ [Instr.montmul, .rsq, .modexp, .modinv])
    (h : checksOf i s = .none) : 0 < s.n := by
  have hz : s.modulusZero = false := by
    simp only [List.mem_cons, List.not_mem_nil, or_false] at hi
    rcases hi with rfl | rfl | rfl | rfl <;>
      exact firstFailure_eq_none _ (by simp) h (s.modulusZero, .modzero) (by simp)
  rw [← Bool.not_eq_true, modulusZero_iff] at hz
  omega

/-- MRTEST runs with at least one round. -/
theorem rounds_pos_of_checks (s : State) (h : checksOf .mrtest s = .none) : 0 < s.rounds.toNat := by
  have hr : s.roundsIllegal = false :=
    firstFailure_eq_none _ (by simp) h (s.roundsIllegal, .rounds) (by simp)
  rw [← Bool.not_eq_true, roundsIllegal_iff] at hr
  omega

/-! ### The invariant holds of an idle block, and is kept where the inputs are -/

theorem State.inv_of_idle {t : State} (hparams : t.params.wellFormed = true) (hoperands : t.OperandsFit)
    (herr : t.ErrAgrees) (hp : t.phase = .idle) (hentropy : t.entropy = .none) (hround : t.round = 0) : t.Inv where
  params := hparams
  operands := hoperands
  err := herr
  running cur hc := by rw [hp] at hc; cases hc
  request hn := absurd hentropy hn
  roundZero _ := hround

/-- Settles O20: an idle block whose operands are all 0. -/
theorem resetMeetsInvariant : Obligations.ResetMeetsInvariant := by
  unfold Obligations.ResetMeetsInvariant
  have hreset : ∀ p : Params, p.wellFormed = true → (State.resetOf p).Inv := fun p hp =>
    State.inv_of_idle hp (fun x => by cases x <;> exact Nat.two_pow_pos _) (resetOf_errAgrees p) rfl rfl rfl
  exact ⟨hreset Params.default (by decide), hreset⟩

theorem State.RunOk.of_sameInputs {s t : State} {cur : Instr} (hs : s.RunOk cur) (hin : s.SameInputs t)
    (hdone : s.done = false → t.done = false) (hresult : t.result = s.result := by rfl) : t.RunOk cur where
  notNop := hs.notNop
  checksPass := (hin.checksOf_eq cur).trans hs.checksPass
  notDone := hdone hs.notDone
  resultZero := hresult.trans hs.resultZero

/-- An action that leaves the inputs, the phase, the entropy port, the round counter and RESULT, and does not set DONE. -/
theorem State.Inv.of_sameInputs {s t : State} (hs : s.Inv) (hin : s.SameInputs t) (hr : t.r < 2 ^ s.params.opw)
    (herr : t.ErrAgrees) (hdone : s.done = false → t.done = false) (hresult : t.result = s.result := by rfl)
    (hphase : t.phase = s.phase := by rfl) (hround : t.round = s.round := by rfl)
    (hentropy : t.entropy = s.entropy := by rfl) : t.Inv where
  params := by rw [hin.params]; exact hs.params
  operands := hin.operandsFit hs.operands hr
  err := herr
  running cur hc := (hs.running cur (hphase ▸ hc)).of_sameInputs hin hdone hresult
  request hn := by
    obtain ⟨hrun, hdraw, hcand, hleft, hrange⟩ := hs.request (hentropy ▸ hn)
    exact ⟨hphase.trans hrun, hin.basesrc.trans hdraw, by rw [State.op_N, hin.n]; exact hcand,
      by rw [hround, hin.rounds]; exact hleft, fun a ha => by rw [State.op_N, hin.n]; exact hrange a (hentropy ▸ ha)⟩
  roundZero hn := by rw [hround]; exact hs.roundZero (hentropy ▸ hn)

/-- While idle there is no entropy request. -/
theorem State.Inv.noRequest {s : State} (hs : s.Inv) (hp : s.phase = .idle) : s.entropy = .none := (hs.settled hp).noRequest

/-! ### The invariant through the commands -/

theorem flagValue_lt (s : State) (hs : s.Inv) (f : Bool) : flagValue f < 2 ^ s.params.opw := by
  have hw := (Params.wellFormed_iff s.params).1 hs.params
  have hopw : s.params.opw ≠ 0 := by rw [Params.opw]; omega
  have h1 : 1 < 2 ^ s.params.opw := Nat.one_lt_two_pow hopw
  cases f with
  | true => exact h1
  | false => exact Nat.two_pow_pos _

/-- What MODINV leaves in R is below a positive modulus (44_modinv.md R82). -/
theorem completeInverse_r_lt (s : State) (a : Nat) (hn : 0 < s.n) : (s.completeInverse (modInv a s.n)).r < s.n := by
  cases hv : modInv a s.n with
  | none => exact hn
  | some v => exact ((modInv_some_iff a s.n v hn).1 hv).1

theorem mrtestEngine_r_lt (s : State) (hs : s.Inv) : (mrtestEngine s).r < 2 ^ s.params.opw := by
  have hscratch : ∀ k, (s.askForBase k).r < 2 ^ s.params.opw := fun k => Nat.mod_lt _ (Nat.two_pow_pos _)
  obtain ⟨f, he⟩ | ⟨-, -, ⟨-, he⟩ | ⟨-, he⟩ | ⟨a, -, -, he⟩⟩ := mrtestEngine_cases s <;> rw [he]
  · exact flagValue_lt s hs f
  · exact hscratch _
  · exact hs.operands .R
  · exact hscratch _

/-- An engine step leaves R below 2^P_OPW: a residue of a positive modulus, a verdict, or scratch. -/
theorem exec_r_lt (s t : State) (cur : Instr) (hs : s.Inv) (hp : s.phase = .running cur) (h : exec cur s = .next t) :
    t.r < 2 ^ s.params.opw := by
  have hrun := hs.running cur hp
  have hfit : s.n < 2 ^ s.params.opw := hs.operands .N
  have hpos : cur ∈ [Instr.montmul, .rsq, .modexp, .modinv] → 0 < s.n := fun hi =>
    modulus_pos_of_checks s cur hi hrun.checksPass
  have of_next : ∀ u, exec cur s = .next u → u.r < 2 ^ s.params.opw → t.r < 2 ^ s.params.opw := by
    intro u hu hr
    rw [hu] at h
    injection h with h
    exact h ▸ hr
  cases cur with
  | nop => exact absurd rfl hrun.notNop
  | montmul => exact of_next _ (exec_montmul_of_running s _ hp) ((montProduct_lt _ _ _ _ (hpos (by decide))).trans hfit)
  | rsq => exact of_next _ (exec_rsq_of_running s _ hp) ((Nat.mod_lt _ (hpos (by decide))).trans hfit)
  | modexp => exact of_next _ (exec_modexp_of_running s _ hp) ((powMod_lt _ _ _ (hpos (by decide))).trans hfit)
  | mrround => exact of_next _ (exec_mrround_of_running s _ hp) (flagValue_lt s hs _)
  | mrtest => exact of_next _ (exec_mrtest_of_running s _ hp) (mrtestEngine_r_lt s hs)
  | modinv =>
    exact of_next _ (exec_modinv_of_running s _ hp) ((completeInverse_r_lt s _ (hpos (by decide))).trans hfit)

/-- The drawing step of MRTEST, before its last round (43_primality.md R78). -/
theorem State.Inv.askForBase {s : State} (hs : s.Inv) (hp : s.phase = .running .mrtest) (hdraw : s.basesrc = true)
    (hcand : trivialVerdict s.n = none) (k : Nat) (hk : k < s.rounds.toNat) : (s.askForBase k).Inv where
  params := hs.params
  operands := State.SameInputs.operandsFit {} hs.operands (Nat.mod_lt _ (Nat.two_pow_pos _))
  err := hs.err.congr rfl rfl
  running cur hc := (hs.running cur hc).of_sameInputs {} id
  request _ := ⟨hp, hdraw, hcand, hk, fun _ ha => by cases ha⟩
  roundZero hn := by cases hn

theorem mrtestEngine_idle_or_inv (s : State) (hs : s.Inv) (hp : s.phase = .running .mrtest) :
    (∃ f, mrtestEngine s = s.completeVerdict f) ∨ (mrtestEngine s).Inv := by
  obtain hf | ⟨hdraw, hcand, hstep⟩ := mrtestEngine_cases s
  · exact .inl hf
  · right
    obtain ⟨hnone, he⟩ | ⟨-, he⟩ | ⟨a, -, hk, he⟩ := hstep <;> rw [he]
    · refine hs.askForBase hp hdraw hcand s.round ?_
      rw [hs.roundZero hnone]
      exact rounds_pos_of_checks s (hs.running .mrtest hp).checksPass
    · exact hs
    · exact hs.askForBase hp hdraw hcand _ hk

/-- An engine step of the running command keeps the invariant. -/
theorem exec_running_inv (s t : State) (cur : Instr) (hs : s.Inv) (hp : s.phase = .running cur)
    (h : exec cur s = .next t) : t.Inv := by
  have hin := exec_sameInputs cur s t h
  have hidle : t.phase = .idle → t.entropy = .none → t.round = 0 → t.Inv :=
    State.inv_of_idle (by rw [hin.params]; exact hs.params)
      (hin.operandsFit hs.operands (exec_r_lt s t cur hs hp h)) (exec_errAgrees cur s t hs.err h)
  obtain ⟨hi, -⟩ | ⟨hi, -⟩ | ⟨c, -, ⟨-, rfl⟩ | ⟨-, v, f, rfl⟩ | ⟨rfl, rfl⟩⟩ := exec_cases s cur t h
  · rw [hp] at hi; cases hi
  · rw [hp] at hi; cases hi
  · exact hidle rfl rfl rfl
  · exact hidle rfl rfl rfl
  · obtain ⟨f, he⟩ | hinv := mrtestEngine_idle_or_inv s hs hp
    · rw [he] at hidle ⊢
      exact hidle rfl rfl rfl
    · exact hinv

/-- An accept keeps the invariant: it completes, fails, or starts a command whose checks pass. -/
theorem exec_idle_inv (s t : State) (i : Instr) (hs : s.Inv) (hp : s.phase = .idle) (h : exec i s = .next t) : t.Inv := by
  have hin := exec_sameInputs i s t h
  have herr := exec_errAgrees i s t hs.err h
  have hfit : t.OperandsFit := hin.operandsFit hs.operands (by rw [exec_r_of_idle i s t hp h]; exact hs.operands .R)
  have hparams : t.params.wellFormed = true := by rw [hin.params]; exact hs.params
  have hnone := hs.noRequest hp
  have hround := hs.roundZero hnone
  obtain ⟨-, -, rfl⟩ | ⟨-, hi, ht⟩ | ⟨c, hc, -⟩ := exec_cases s i t h
  · exact State.inv_of_idle hparams hfit herr rfl rfl rfl
  · by_cases hc : checksOf i s = .none
    · rw [hc, accept_of_pass] at ht
      subst ht
      refine ⟨hparams, hfit, herr, fun cur hcur => ?_, fun hn => absurd hnone hn, fun _ => hround⟩
      cases hcur
      exact ⟨hi, (hin.checksOf_eq i).trans hc, rfl, rfl⟩
    · rw [accept_of_fail s i _ hc] at ht
      subst ht
      exact State.inv_of_idle hparams hfit herr hp hnone hround
  · rw [hp] at hc; cases hc

/-! ### The invariant through the events -/

theorem presentCommand_inv (s t : State) (w : Word) (hs : s.Inv) (h : s.presentCommand w = .next t) : t.Inv := by
  have herr := presentCommand_errAgrees s t w hs.err h
  obtain ⟨c, -, rfl⟩ | ⟨hp, i, -, hexec⟩ | ⟨hp, rfl⟩ := presentCommand_cases s w t h
  · exact hs.of_sameInputs {} (hs.operands .R) herr id
  · exact exec_idle_inv s t i hs hp hexec
  · exact State.inv_of_idle hs.params (State.SameInputs.operandsFit {} hs.operands (hs.operands .R)) herr hp
      (hs.noRequest hp) (hs.roundZero (hs.noRequest hp))

theorem resetBlock_inv (s : State) (hs : s.Inv) : s.resetBlock.Inv :=
  have h := resetMeetsInvariant.2 s.params hs.params
  h.of_sameInputs {} (h.operands .R) (h.err.congr rfl rfl) id

theorem setErr_inv (s : State) (hs : s.Inv) (c : ErrCode) (hc : c ≠ .none) : (s.setErr c).Inv :=
  hs.of_sameInputs {} (hs.operands .R) (setErr_errAgrees s c hc) id

/-- While idle the host may set any setting, and any operand to a value below 2^P_OPW. -/
theorem State.Inv.of_idle_write {s t : State} (hs : s.Inv) (hp : s.phase = .idle) (hoperands : t.OperandsFit)
    (hparams : t.params = s.params) (herr : t.err = s.err) (hcode : t.errCode = s.errCode) (hphase : t.phase = s.phase)
    (hentropy : t.entropy = s.entropy) (hround : t.round = s.round) : t.Inv :=
  State.inv_of_idle (by rw [hparams]; exact hs.params) hoperands (hs.err.congr herr hcode) (hphase.trans hp)
    (hentropy.trans (hs.noRequest hp)) (hround.trans (hs.roundZero (hs.noRequest hp)))

theorem writeCtrl_inv (s : State) (v : Word) (hs : s.Inv) : (s.writeCtrl v).Inv := by
  obtain he | ⟨hp, he⟩ | he := writeCtrl_cases s v <;> rw [he]
  · exact resetBlock_inv s hs
  · exact hs.of_idle_write hp hs.operands rfl rfl rfl rfl rfl rfl
  · exact hs.of_sameInputs {} (hs.operands .R) (hs.err.congr rfl rfl) id

theorem writeStatus_inv (s : State) (v : Word) (hs : s.Inv) : (s.writeStatus v).Inv :=
  hs.of_sameInputs {} (hs.operands .R) (writeStatus_errAgrees s v hs.err) fun hd => by simp [hd]

theorem writeLen_inv (s : State) (v : Word) (hs : s.Inv) : (s.writeLen v).Inv := by
  cases hp : s.phase with
  | idle =>
    rw [writeLen_of_idle s v hp]
    exact hs.of_idle_write hp hs.operands rfl rfl rfl rfl rfl rfl
  | running c =>
    rw [writeLen_of_running s v c hp]
    exact setErr_inv s hs .wbusy (by decide)

theorem writeRounds_inv (s : State) (v : Word) (hs : s.Inv) : (s.writeRounds v).Inv := by
  cases hp : s.phase with
  | idle =>
    rw [writeRounds_of_idle s v hp]
    exact hs.of_idle_write hp hs.operands rfl rfl rfl rfl rfl rfl
  | running c =>
    rw [writeRounds_of_running s v c hp]
    exact setErr_inv s hs .wbusy (by decide)

theorem writeOperandWord_inv (s : State) (x : OpReg) (j : Nat) (v : Word) (hs : s.Inv) (hj : j < s.params.maxw) :
    (s.writeOperandWord x j v).Inv := by
  cases hp : s.phase with
  | idle =>
    rw [writeOperandWord_of_idle s x j v hp]
    refine hs.of_idle_write hp (fun y => ?_) (by simp) (by simp) (by simp) (by simp) (by simp) (by simp)
    rw [State.op_setOperand, State.setOperand_params]
    split
    · exact withOperandWord_lt _ j _ v hj (hs.operands x)
    · exact hs.operands y
  | running c =>
    rw [writeOperandWord_of_running s x j v c hp]
    exact setErr_inv s hs .wbusy (by decide)

theorem respond_inv (s : State) (x : Response) (hs : s.Inv) : (s.respond x).Inv :=
  hs.of_sameInputs {} (hs.operands .R) (hs.err.congr rfl rfl) id

theorem handle_host_inv (s t : State) (acc : Access) (hs : s.Inv) (h : s.handle (.host acc) = .next t) : t.Inv := by
  have hw := respond_inv s .written hs
  obtain ⟨x, rfl⟩ | rfl | ⟨v, -, -, -, rfl⟩ | ⟨w, -, h⟩ | ⟨v, -, rfl⟩ | ⟨v, rfl⟩ | ⟨v, rfl⟩ | ⟨x, j, v, -, hj, rfl⟩ :=
    handle_host_cases s acc t h
  · exact respond_inv s x hs
  · exact hs.of_sameInputs {} (hs.operands .R) (hs.err.congr rfl rfl) id
  · exact writeCtrl_inv _ v hw
  · exact presentCommand_inv _ t w hw h
  · exact writeStatus_inv _ v hw
  · exact writeLen_inv _ v hw
  · exact writeRounds_inv _ v hw
  · exact writeOperandWord_inv _ x j v hw hj

theorem internalStep_inv (s : State) (hs : s.Inv) : s.internalStep.Inv := by
  obtain he | he := internalStep_cases s <;> rw [he]
  · exact hs.of_sameInputs {} (Nat.mod_lt _ (Nat.two_pow_pos _)) (hs.err.congr rfl rfl) id
  · exact hs

theorem offerEntropy_inv (s : State) (v : Nat) (hs : s.Inv) : (s.offerEntropy v).Inv := by
  obtain ⟨hreq, hlow, hhigh, he⟩ | he := offerEntropy_cases s v <;> rw [he]
  · obtain ⟨hrun, hdraw, hcand, hleft, -⟩ := hs.request (by rw [hreq]; decide)
    refine ⟨hs.params, hs.operands, hs.err, fun cur hc => (hs.running cur hc).of_sameInputs {} id,
      fun _ => ⟨hrun, hdraw, hcand, hleft, fun a ha => ?_⟩, fun hn => by cases hn⟩
    cases ha
    exact ⟨hlow, hhigh⟩
  · exact hs

theorem handle_inv (s t : State) (ev : Event) (hs : s.Inv) (h : s.handle ev = .next t) : t.Inv := by
  cases ev with
  | host acc => exact handle_host_inv s t acc hs h
  | engine =>
    obtain ⟨-, rfl⟩ | ⟨cur, hp, hexec⟩ := engineStep_cases s t h
    · exact hs
    · exact exec_running_inv s t cur hs hp hexec
  | engineInternal =>
    injection h with h
    exact h ▸ internalStep_inv s hs
  | entropy v =>
    injection h with h
    exact h ▸ offerEntropy_inv s v hs
  | hardwareReset =>
    injection h with h
    exact h ▸ respond_inv _ .none (resetBlock_inv s hs)

/-- Settles O21: every event of the total order keeps the invariant, and it does not speak of the schedule. -/
theorem stepKeepsInvariant : Obligations.StepKeepsInvariant := by
  unfold Obligations.StepKeepsInvariant
  exact step_preserves State.Inv
    (fun _ _ hs => hs.of_sameInputs {} (hs.operands .R) (hs.err.congr rfl rfl) id) handle_inv

/-! ### Accesses to the control registers (20_memory.md R37) -/

theorem handle_wr_ctrl (s : State) (v : Word) :
    s.handle (wr s.params 0x0008 v) = .next ((s.respond .written).writeCtrl v) := handle_wr s 0x0008 v rfl (by decide)

theorem handle_wr_len (s : State) (v : Word) :
    s.handle (wr s.params 0x0014 v) = .next ((s.respond .written).writeLen v) := handle_wr s 0x0014 v rfl (by decide)

theorem handle_wr_rounds (s : State) (v : Word) :
    s.handle (wr s.params 0x0018 v) = .next ((s.respond .written).writeRounds v) := handle_wr s 0x0018 v rfl (by decide)

theorem handle_wr_status (s : State) (v : Word) :
    s.handle (wr s.params 0x0010 v) = .next ((s.respond .written).writeStatus v) := handle_wr s 0x0010 v rfl (by decide)

theorem handle_softReset (s : State) (v : Word) (h : v.getLsbD 31 = true) :
    s.handle (wr s.params 0x0008 v) = .next
      { State.resetOf s.params with schedule := s.schedule, response := .written, freeCount := s.freeCount } := by
  rw [handle_wr_ctrl, writeCtrl_of_srst _ v h]
  rfl

theorem handle_hardwareReset (s : State) : s.handle .hardwareReset = .next
    { State.resetOf s.params with schedule := s.schedule, freeCount := s.freeCount } := rfl

/-- Settles O24: either reset leaves `State.resetOf` up to the model's own fields (log 14), and MAXW fits the LEN field. -/
theorem resetValues : Obligations.ResetValues := by
  unfold Obligations.ResetValues
  refine ⟨fun s t hp ht => ?_, by decide, by decide⟩
  have hreset : ∃ sched resp k,
      t = { State.resetOf s.params with schedule := sched, response := resp, freeCount := k } := by
    obtain rfl | h | ⟨v, hv, h⟩ := ht
    · exact ⟨_, _, _, rfl⟩
    · rw [handle_hardwareReset] at h
      injection h with h
      exact ⟨_, _, _, h.symm⟩
    · rw [handle_softReset s v hv] at h
      injection h with h
      exact ⟨_, _, _, h.symm⟩
  obtain ⟨sched, resp, k, rfl⟩ := hreset
  have hw := (Params.wellFormed_iff s.params).1 hp
  have hlen : (BitVec.ofNat 16 s.params.maxw).toNat = s.params.maxw := by
    rw [BitVec.toNat_ofNat]
    omega
  exact ⟨fun x => by cases x <;> rfl, rfl, rfl, rfl, rfl, rfl, rfl, rfl, rfl, rfl, rfl, hlen, rfl, rfl, rfl, rfl⟩

/-- Settles O28: each access reaches its register. -/
theorem idConfigAndCmdReads : Obligations.IdConfigAndCmdReads := by
  unfold Obligations.IdConfigAndCmdReads
  refine ⟨by decide, fun s => ⟨?_, ?_, ?_, fun v => ⟨?_, ?_⟩⟩⟩
  · exact handle_rd s 0x0000 rfl (by decide)
  · exact handle_rd s 0x0004 rfl (by decide)
  · exact handle_rd s 0x000C rfl (by decide)
  · exact handle_wr s 0x0000 v rfl (by decide)
  · exact handle_wr s 0x0004 v rfl (by decide)

/-! ### STATUS and CTRL as words (10_state.md R26, R28) -/

theorem statusWord_getLsbD (s : State) (k : Nat) :
    s.statusWord.getLsbD k =
      if k < 4 then [s.busy, s.done, s.result, s.err].getD k false else (errCodeBits s.errCode).getLsbD (k - 4) := by
  rw [State.statusWord, BitVec.getLsbD_append, BitVec.getLsbD_append, BitVec.getLsbD_append, BitVec.getLsbD_append,
    BitVec.getLsbD_append]
  match k with
  | 0 | 1 | 2 | 3 => simp
  | k + 4 => simpa using fun h => BitVec.lt_of_getLsbD h

theorem statusWord_errCode (s : State) : s.statusWord.extractLsb' 4 4 = errCodeBits s.errCode := by
  ext i hi
  simp [statusWord_getLsbD, BitVec.getLsbD_eq_getElem hi]

theorem statusWord_reserved (s : State) : s.statusWord.extractLsb' 8 24 = 0#24 := by
  ext i hi
  rw [BitVec.getElem_extractLsb', statusWord_getLsbD, if_neg (by omega), BitVec.getLsbD_of_ge _ _ (by omega)]
  simp

theorem ctrlWord_getLsbD (s : State) (k : Nat) : s.ctrlWord.getLsbD k = [s.irqen, s.basesrc].getD k false := by
  rw [State.ctrlWord, BitVec.getLsbD_append, BitVec.getLsbD_append]
  match k with
  | 0 | 1 | k + 2 => simp

theorem ctrlWord_reserved (s : State) : s.ctrlWord.extractLsb' 2 30 = 0#30 := by
  ext i hi
  rw [BitVec.getElem_extractLsb', ctrlWord_getLsbD, Nat.add_comm]
  simp

theorem resetOf_ctrlWord (p : Params) : (State.resetOf p).ctrlWord = 0x00000002#32 := by
  rw [State.ctrlWord, State.resetOf_basesrc, State.resetOf_irqen]
  decide

/-- The numbers of the error codes are distinct from that of "no error" (60_exceptions.md R94). -/
theorem errCodeBits_eq_zero_iff (c : ErrCode) : errCodeBits c = 0#4 ↔ c = .none := by
  cases c <;> decide

/-- Settles O26: the bits of STATUS are its fields, a W1C write clears them, and every step keeps ERR and ERRCODE together. -/
theorem statusRegister : Obligations.StatusRegister := by
  unfold Obligations.StatusRegister
  refine ⟨by decide, fun s hs => ?_, fun s => ⟨?_, ?_, ?_, ?_, ?_, ?_, ?_⟩, fun s v => ?_, resetOf_errAgrees, step_errAgrees⟩
  · rw [statusWord_errCode, errCodeBits_eq_zero_iff, statusWord_getLsbD]
    exact hs
  · exact statusWord_getLsbD s 0
  · exact statusWord_getLsbD s 1
  · exact statusWord_getLsbD s 2
  · exact statusWord_getLsbD s 3
  · exact statusWord_errCode s
  · exact statusWord_reserved s
  · exact handle_rd s 0x0010 rfl (by decide)
  · rw [handle_wr_status, writeStatus_eq]
    rfl

/-- Settles O27: the three kinds of CTRL write. -/
theorem ctrlRegister : Obligations.CtrlRegister := by
  unfold Obligations.CtrlRegister
  intro s v
  refine ⟨ctrlWord_getLsbD s 0, ctrlWord_getLsbD s 1, ctrlWord_reserved s, handle_rd s 0x0008 rfl (by decide), ?_, ?_, ?_⟩
  · intro hv hp
    rw [handle_wr_ctrl, writeCtrl_of_idle (s.respond .written) v hv hp]
    rfl
  · intro hv hp
    obtain ⟨c, hc⟩ := exists_running s hp
    rw [handle_wr_ctrl, writeCtrl_of_running (s.respond .written) v c hv hc]
    rfl
  · intro hv
    exact ⟨_, handle_softReset s v hv, rfl, resetOf_ctrlWord s.params⟩

/-! ### LEN and ROUNDS (10_state.md R29, R30) -/

/-- Check 2 comes first: an illegal LEN fails every command but NOP with LEN (40_command_lifecycle.md R62). -/
theorem checksOf_of_lenIllegal (s : State) (i : Instr) (hi : i ≠ .nop) (h : s.lenIllegal = true) :
    checksOf i s = .len := by
  cases i with
  | nop => exact absurd rfl hi
  | _ => exact (firstFailure_cons _ _ _).trans (if_pos h)

/-- Settles O29: the accesses reach their fields, and the LEN check comes first. -/
theorem lenAndRoundsRegisters : Obligations.LenAndRoundsRegisters := by
  unfold Obligations.LenAndRoundsRegisters
  intro s v
  refine ⟨handle_rd s 0x0014 rfl (by decide), handle_rd s 0x0018 rfl (by decide), fun hp => ⟨?_, ?_⟩, ?_⟩
  · rw [handle_wr_len, writeLen_of_idle (s.respond .written) v hp]
    rfl
  · rw [handle_wr_rounds, writeRounds_of_idle (s.respond .written) v hp]
    rfl
  · intro hp hlen i hi
    rw [exec_of_idle s i hi hp, checksOf_of_lenIllegal s i hi ((lenIllegal_iff s).2 hlen)]
    rfl

/-! ### Operand words (10_state.md R20) -/

/-- The low `k` words of a number are the sum of its words. -/
theorem mod_eq_sum_operandWord (x k : Nat) :
    x % 2 ^ (32 * k) = ∑ j ∈ Finset.range k, (operandWord x j).toNat * 2 ^ (32 * j) := by
  induction k with
  | zero => simp [Nat.mod_one]
  | succ k ih =>
    rw [Finset.sum_range_succ, ← ih, operandWord_toNat, Nat.mul_succ, pow_add, Nat.mod_mul, Nat.mul_comm (2 ^ (32 * k))]

/-- Settles O33: the sum of the words, by induction on their number. -/
theorem operandIsSumOfWords : Obligations.OperandIsSumOfWords := by
  unfold Obligations.OperandIsSumOfWords
  refine ⟨fun s x hs => ?_, operandWord_toNat, fun x j i v => testBit_withOperandWord x j v i⟩
  rw [← mod_eq_sum_operandWord]
  exact (Nat.mod_eq_of_lt (hs x)).symm

end Sys2Proof.Machine

/-! SUPPORT. Proofs about host accesses and buffers (20_memory.md): which accesses reach the block, what a read and a write at an
offset do, what an access can do to a running command, and the big-endian bytes of an integer. -/

namespace Sys2Proof.Machine

/-! ### The window (20_memory.md R36) -/

theorem windowOffset_eq_none (p : Params) (addr : Nat) (h : addr < p.base ∨ p.base + 2 ^ 16 ≤ addr) :
    windowOffset p addr = none := by
  rw [windowOffset, Config.addrW, if_neg (by omega)]

/-- Settles O59: there is no offset, so the access does not reach the block. -/
theorem outsideWindowChangesNothing : Obligations.OutsideWindowChangesNothing := by
  unfold Obligations.OutsideWindowChangesNothing
  intro s acc h
  exact hostAccess_outside s acc (windowOffset_eq_none s.params acc.addr h)

theorem handle_host_at (s : State) (acc : Access) (off : Nat) (haddr : acc.addr = s.params.base + off)
    (h : off < 2 ^ 16) : s.handle (.host acc) = s.accessAt acc off := by
  rw [State.handle, State.hostAccess, haddr, windowOffset_base_add s.params off h]

/-- An access is outside the window, or it has an offset in it. -/
theorem outside_or_offset (p : Params) (addr : Nat) :
    (addr < p.base ∨ p.base + 2 ^ 16 ≤ addr) ∨ ∃ off, addr = p.base + off ∧ off < 2 ^ 16 := by
  by_cases h : addr < p.base ∨ p.base + 2 ^ 16 ≤ addr
  · exact .inl h
  · exact .inr ⟨addr - p.base, by omega, by omega⟩

/-! ### Bus errors (20_memory.md R39, R40) -/

/-- An access of a legal width and alignment that gets a bus error: the target is unmapped, or the access writes ID, CONFIG or a word
of R (20_memory.md R40). -/
def Target.refuses : Target → AccessKind → Bool
  | .unmapped, _ => true
  | .id, .write _ => true
  | .config, .write _ => true
  | .operandWord x _, .write _ => decide (x = .R)
  | _, _ => false

/-- The regions of the address map (20_memory.md R37). -/
theorem offset_regions (off : Nat) (h4 : off % 4 = 0) :
    off ∈ [0x0000, 0x0004, 0x0008, 0x000C, 0x0010, 0x0014, 0x0018] ∨ (0x001C ≤ off ∧ off < 0x1000) ∨ 0x6000 ≤ off ∨
      ∃ x j, j < 1024 ∧ off = windowBase x + 4 * j := by
  by_cases hwin : 0x1000 ≤ off ∧ off < 0x6000
  · have hx : ∃ x, windowBase x ≤ off ∧ off < windowBase x + 0x1000 := by
      have hcases : off / 0x1000 = 1 ∨ off / 0x1000 = 2 ∨ off / 0x1000 = 3 ∨ off / 0x1000 = 4 ∨ off / 0x1000 = 5 := by omega
      obtain hk | hk | hk | hk | hk := hcases
      · exact ⟨.A, by simp only [windowBase]; omega⟩
      · exact ⟨.B, by simp only [windowBase]; omega⟩
      · exact ⟨.E, by simp only [windowBase]; omega⟩
      · exact ⟨.N, by simp only [windowBase]; omega⟩
      · exact ⟨.R, by simp only [windowBase]; omega⟩
    obtain ⟨x, hlow, hhigh⟩ := hx
    have hbase : windowBase x % 4 = 0 := by cases x <;> rfl
    exact .inr (.inr (.inr ⟨x, (off - windowBase x) / 4, by omega, by omega⟩))
  · simp only [List.mem_cons, List.not_mem_nil, or_false]
    omega

theorem targetOf_control_gap (m off : Nat) (hlow : 0x001C ≤ off) (hhigh : off < 0x1000) : targetOf m off = .unmapped := by
  have hdiv : off / 0x1000 = 0 := by omega
  simp only [targetOf, hdiv]
  unfold controlTarget
  repeat rw [if_neg (by omega)]

theorem targetOf_above_windows (m off : Nat) (h : 0x6000 ≤ off) : targetOf m off = .unmapped := by
  obtain ⟨k, hk⟩ : ∃ k, off / 0x1000 = k + 6 := ⟨off / 0x1000 - 6, by omega⟩
  simp only [targetOf, hk]

/-- The offset of a window's word is unmapped from MAXW on (20_memory.md R37). -/
theorem unmappedOffset_window (m : Nat) (x : OpReg) (j : Nat) (hj : j < 1024) :
    unmappedOffset m (windowBase x + 4 * j) ↔ m ≤ j := by
  have hword : (windowBase x + 4 * j) % 0x1000 / 4 = j := by cases x <;> simp only [windowBase] <;> omega
  rw [unmappedOffset, hword]
  cases x <;> simp only [windowBase] <;> omega

/-- R's window is the one from 0x5000 (20_memory.md R38). -/
theorem window_in_R_iff (x : OpReg) (j : Nat) (hj : j < 1024) :
    (0x5000 ≤ windowBase x + 4 * j ∧ windowBase x + 4 * j < 0x6000) ↔ x = .R := by
  cases x <;> simp only [windowBase, reduceCtorEq, iff_false, iff_true] <;> omega

/-- The listed bus errors of an access of a legal width and alignment are the ones that its target refuses (20_memory.md R40). -/
theorem busErrorCase_iff_refuses (s : State) (acc : Access) (off : Nat) (hw : acc.width = .w32) (h4 : off % 4 = 0) :
    busErrorCase s acc off ↔ (targetOf s.params.maxw off).refuses acc.kind = true := by
  simp only [busErrorCase, hw, h4, ne_eq, not_true_eq_false, false_or]
  obtain hctrl | ⟨hlow, hhigh⟩ | habove | ⟨x, j, hj, rfl⟩ := offset_regions off h4
  · simp only [List.mem_cons, List.not_mem_nil, or_false] at hctrl
    obtain rfl | rfl | rfl | rfl | rfl | rfl | rfl := hctrl <;> cases acc.kind <;> simp [unmappedOffset, Target.refuses]
  · rw [targetOf_control_gap _ _ hlow hhigh]
    exact iff_of_true (.inl (.inl ⟨hlow, hhigh⟩)) rfl
  · rw [targetOf_above_windows _ _ habove]
    exact iff_of_true (.inl (.inr (.inl habove))) rfl
  · have hid : windowBase x + 4 * j ≠ 0x0000 ∧ windowBase x + 4 * j ≠ 0x0004 := by
      cases x <;> simp only [windowBase] <;> omega
    rw [unmappedOffset_window _ x j hj, window_in_R_iff x j hj, targetOf_window _ x j hj]
    simp only [hid.1, hid.2, false_or]
    split
    · rename_i hmapped
      cases acc.kind <;> simp [Target.refuses, hmapped]
    · rename_i hunmapped
      exact iff_of_true (.inl (Nat.le_of_not_lt hunmapped)) rfl

theorem busRead_of_refused (s : State) (g : Target) (h : g.refuses .read = true) : s.busRead g = s.respond .busError := by
  cases g with
  | unmapped => rfl
  | _ => cases h

/-- A read that is not refused returns a word. -/
theorem busRead_of_not_refused (s : State) (g : Target) (h : g.refuses .read = false) :
    ∃ w, (s.busRead g).response = .data w := by
  cases g with
  | unmapped => cases h
  | operandWord x j =>
    rw [State.busRead]
    split
    · exact ⟨_, rfl⟩
    · exact ⟨_, rfl⟩
  | _ => exact ⟨_, rfl⟩

theorem busWrite_of_refused (s : State) (v : Word) (g : Target) (h : g.refuses (.write v) = true) :
    s.busWrite v g = .next (s.respond .busError) := by
  cases g with
  | id | config | unmapped => rfl
  | operandWord x j => exact if_pos (of_decide_eq_true h)
  | _ => cases h

/-- A CTRL write leaves the answer, a soft reset too (70_reset_and_hazards.md R109). -/
theorem writeCtrl_response (s : State) (v : Word) : (s.writeCtrl v).response = s.response := by
  obtain he | ⟨-, he⟩ | he := writeCtrl_cases s v <;> exact (congrArg State.response he).trans rfl

/-- A CMD write answers a next state and leaves the answer, whatever becomes of the command (40_command_lifecycle.md R61). -/
theorem presentCommand_next (s : State) (w : Word) : ∃ t, s.presentCommand w = .next t ∧ t.response = s.response := by
  cases hp : s.phase with
  | running c => exact ⟨_, presentCommand_of_running s w c hp, rfl⟩
  | idle =>
    cases hd : decode w with
    | error r => exact ⟨_, presentCommand_of_illegal s w r hp hd, rfl⟩
    | ok i =>
      obtain ⟨t, ht⟩ := exec_next s i
      obtain ⟨-, -, -, -, -, -, -, -, -, -, hresponse, -⟩ := commandFrame i s t ht
      exact ⟨t, (presentCommand_of_decode s w i hp hd).trans ht, hresponse⟩

/-- A write that is not refused gets the normal response, dropped or not (20_memory.md R43). -/
theorem busWrite_of_not_refused (s : State) (v : Word) (g : Target) (h : g.refuses (.write v) = false) :
    ∃ t, s.busWrite v g = .next t ∧ t.response = .written := by
  cases g with
  | id | config | unmapped => cases h
  | ctrl => exact ⟨_, rfl, writeCtrl_response _ v⟩
  | cmd => exact presentCommand_next (s.respond .written) v
  | status => exact ⟨_, rfl, rfl⟩
  | len =>
    refine ⟨_, rfl, ?_⟩
    rw [State.writeLen]
    split <;> rfl
  | rounds =>
    refine ⟨_, rfl, ?_⟩
    rw [State.writeRounds]
    split <;> rfl
  | operandWord x j =>
    refine ⟨_, if_neg (of_decide_eq_false h), ?_⟩
    rw [State.writeOperandWord]
    split
    · rfl
    · rw [State.setOperand_response, State.respond_response]

theorem accessAt_of_read (s : State) (acc : Access) (off : Nat) (hw : acc.width = .w32) (h4 : off % 4 = 0)
    (hk : acc.kind = .read) : s.accessAt acc off = .next (s.busRead (targetOf s.params.maxw off)) := by
  simp only [State.accessAt, Access.wellFormed, hw, h4, hk, decide_true, Bool.and_self, if_true]

theorem accessAt_of_write (s : State) (acc : Access) (off : Nat) (v : Word) (hw : acc.width = .w32) (h4 : off % 4 = 0)
    (hk : acc.kind = .write v) : s.accessAt acc off = s.busWrite v (targetOf s.params.maxw off) := by
  simp only [State.accessAt, Access.wellFormed, hw, h4, hk, decide_true, Bool.and_self, if_true]

theorem accessAt_of_illegal (s : State) (acc : Access) (off : Nat) (h : ¬ (acc.width = .w32 ∧ off % 4 = 0)) :
    s.accessAt acc off = .next (s.respond .busError) := by
  rw [State.accessAt, Access.wellFormed, ← Bool.decide_and, if_neg (by simpa using h)]

theorem accessAt_of_busErrorCase (s : State) (acc : Access) (off : Nat) (h : busErrorCase s acc off) :
    s.accessAt acc off = .next (s.respond .busError) := by
  by_cases hlegal : acc.width = .w32 ∧ off % 4 = 0
  · obtain ⟨hw, h4⟩ := hlegal
    rw [busErrorCase_iff_refuses s acc off hw h4] at h
    cases hk : acc.kind with
    | read => rw [accessAt_of_read s acc off hw h4 hk, busRead_of_refused s _ (hk ▸ h)]
    | write v => rw [accessAt_of_write s acc off v hw h4 hk, busWrite_of_refused s v _ (hk ▸ h)]
  · exact accessAt_of_illegal s acc off hlegal

theorem accessAt_of_not_busErrorCase (s : State) (acc : Access) (off : Nat) (h : ¬ busErrorCase s acc off) :
    ∃ t, s.accessAt acc off = .next t ∧ t.response ≠ .busError := by
  have hlegal : acc.width = .w32 ∧ off % 4 = 0 := by
    rw [busErrorCase] at h
    tauto
  obtain ⟨hw, h4⟩ := hlegal
  rw [busErrorCase_iff_refuses s acc off hw h4, Bool.not_eq_true] at h
  cases hk : acc.kind with
  | read =>
    obtain ⟨w, hresponse⟩ := busRead_of_not_refused s _ (hk ▸ h)
    exact ⟨_, accessAt_of_read s acc off hw h4 hk, by simp [hresponse]⟩
  | write v =>
    obtain ⟨t, ht, hresponse⟩ := busWrite_of_not_refused s v _ (hk ▸ h)
    exact ⟨t, (accessAt_of_write s acc off v hw h4 hk).trans ht, by simp [hresponse]⟩

/-- Settles O30: the listed accesses are the illegal ones and those their target refuses. -/
theorem busErrorsChangeNothing : Obligations.BusErrorsChangeNothing := by
  unfold Obligations.BusErrorsChangeNothing
  intro s acc off haddr hoff
  rw [handle_host_at s acc off haddr hoff]
  exact ⟨accessAt_of_busErrorCase s acc off, accessAt_of_not_busErrorCase s acc off⟩

/-! ### Reads (20_memory.md R42) -/

theorem busRead_cases (s : State) (g : Target) :
    (∃ x, s.busRead g = s.respond x) ∨ (s.phase ≠ .idle ∧ s.busRead g = s.respondUnspecified) := by
  cases g with
  | operandWord x j =>
    rw [State.busRead]
    split
    · rename_i hfree
      refine .inr ⟨fun hp => ?_, rfl⟩
      rw [s.busy_of_idle hp] at hfree
      cases hfree.2
    · exact .inl ⟨_, rfl⟩
  | _ => exact .inl ⟨_, rfl⟩

/-- Everything a read can do, whatever its address, width and alignment: an answer, or a free word while busy. -/
theorem handle_host_read_cases (s : State) (acc : Access) (hk : acc.kind = .read) :
    (∃ x, s.handle (.host acc) = .next (s.respond x)) ∨
      (s.phase ≠ .idle ∧ s.handle (.host acc) = .next s.respondUnspecified) := by
  obtain hout | ⟨off, haddr, hoff⟩ := outside_or_offset s.params acc.addr
  · exact .inl ⟨_, outsideWindowChangesNothing s acc hout⟩
  · rw [handle_host_at s acc off haddr hoff]
    by_cases hlegal : acc.width = .w32 ∧ off % 4 = 0
    · rw [accessAt_of_read s acc off hlegal.1 hlegal.2 hk]
      obtain ⟨x, he⟩ | ⟨hp, he⟩ := busRead_cases s (targetOf s.params.maxw off) <;> rw [he]
      · exact .inl ⟨x, rfl⟩
      · exact .inr ⟨hp, rfl⟩
    · exact .inl ⟨_, accessAt_of_illegal s acc off hlegal⟩

/-- Settles O31: a read gives an answer, and draws a free word only while busy. -/
theorem readsChangeNothing : Obligations.ReadsChangeNothing := by
  unfold Obligations.ReadsChangeNothing
  intro s acc hk
  obtain ⟨x, h⟩ | ⟨hp, h⟩ := handle_host_read_cases s acc hk
  · exact ⟨x, s.freeCount, h, fun _ => rfl⟩
  · exact ⟨_, s.freeCount + 1, h, fun hidle => absurd hidle hp⟩

/-! ### Operand windows and writes while busy (20_memory.md R38, R43) -/

theorem busRead_operandWord (s : State) (x : OpReg) (j : Nat) (h : x ≠ .R ∨ s.phase = .idle) :
    s.busRead (.operandWord x j) = s.respond (.data (operandWord (s.op x) j)) := by
  refine if_neg fun hfree => ?_
  obtain ⟨hx, hbusy⟩ := hfree
  obtain hne | hp := h
  · exact hne hx
  · rw [s.busy_of_idle hp] at hbusy
    cases hbusy

theorem busRead_R_of_running (s : State) (j : Nat) (hp : s.phase ≠ .idle) :
    s.busRead (.operandWord .R j) = s.respondUnspecified := by
  obtain ⟨c, hc⟩ := exists_running s hp
  exact if_pos ⟨rfl, s.busy_of_running c hc⟩

theorem handle_wr_operand (s : State) (x : OpReg) (j : Nat) (v : Word) (hx : x ≠ .R) (hj : j < s.params.maxw)
    (hm : s.params.maxw ≤ 1024) :
    s.handle (wr s.params (windowBase x + 4 * j) v) = .next ((s.respond .written).writeOperandWord x j v) :=
  (handle_wr_window s x j v hj hm).trans (if_neg hx)

theorem State.op_respond (s : State) (y : Response) (x : OpReg) : (s.respond y).op x = s.op x := by
  cases x <;> rfl

theorem State.setOperand_respond (s : State) (y : Response) (x : OpReg) (n : Nat) :
    (s.respond y).setOperand x n = (s.setOperand x n).respond y := by
  cases x <;> rfl

theorem handle_wr_operand_of_idle (s : State) (x : OpReg) (j : Nat) (v : Word) (hx : x ≠ .R) (hj : j < s.params.maxw)
    (hm : s.params.maxw ≤ 1024) (hp : s.phase = .idle) :
    s.handle (wr s.params (windowBase x + 4 * j) v) = .next
      ((s.setOperand x (withOperandWord (s.op x) j v)).respond .written) := by
  rw [handle_wr_operand s x j v hx hj hm, writeOperandWord_of_idle (s.respond .written) x j v hp, State.op_respond,
    State.setOperand_respond]

theorem handle_wr_operand_of_running (s : State) (x : OpReg) (j : Nat) (v : Word) (hx : x ≠ .R) (hj : j < s.params.maxw)
    (hm : s.params.maxw ≤ 1024) (hp : s.phase ≠ .idle) :
    s.handle (wr s.params (windowBase x + 4 * j) v) = .next
      { s with response := .written, err := true, errCode := .wbusy } := by
  obtain ⟨c, hc⟩ := exists_running s hp
  rw [handle_wr_operand s x j v hx hj hm, writeOperandWord_of_running (s.respond .written) x j v c hc]
  rfl

/-- Settles O32: a word's read and write, by register and phase. -/
theorem operandWindows : Obligations.OperandWindows := by
  unfold Obligations.OperandWindows
  intro s x j hj hm
  refine ⟨fun h => ?_, fun hx hp => ?_, fun v => ⟨fun hx => ?_, fun hx hp => ?_, fun hx hp => ?_⟩⟩
  · rw [handle_rd_window s x j hj hm, busRead_operandWord s x j h, operandWord, Nat.shiftRight_eq_div_pow]
    rfl
  · subst hx
    exact ⟨_, by rw [handle_rd_window s .R j hj hm, busRead_R_of_running s j hp]; rfl⟩
  · exact (handle_wr_window s x j v hj hm).trans (if_pos hx)
  · exact handle_wr_operand_of_running s x j v hx hj hm hp
  · have hop : ((s.setOperand x (withOperandWord (s.op x) j v)).respond .written).op x = withOperandWord (s.op x) j v := by
      rw [State.op_respond, State.op_setOperand, if_pos rfl]
    refine ⟨_, handle_wr_operand_of_idle s x j v hx hj hm hp, ?_⟩
    rw [hop]
    exact ⟨rfl, operandWord_withOperandWord_same _ j v, fun k hk => operandWord_withOperandWord_ne _ j k v hk⟩

/-- Settles O34: the write of each register while a command runs. -/
theorem writesWhileBusy : Obligations.WritesWhileBusy := by
  unfold Obligations.WritesWhileBusy
  intro s v hp
  obtain ⟨c, hc⟩ := exists_running s hp
  refine ⟨fun x j hx hj hm => handle_wr_operand_of_running s x j v hx hj hm hp, ?_, ?_, fun hv => ?_, handle_softReset s v,
    handle_wr_status s v, ?_⟩
  · rw [handle_wr_len, writeLen_of_running (s.respond .written) v c hc]
    rfl
  · rw [handle_wr_rounds, writeRounds_of_running (s.respond .written) v c hc]
    rfl
  · rw [handle_wr_ctrl, writeCtrl_of_running (s.respond .written) v c hv hc]
    rfl
  · rw [handle_cmd, presentCommand_of_running (s.respond .written) v c hc]
    rfl

/-! ### A running command and the host (20_memory.md R43, R48) -/

/-- A host access other than a soft reset changes only the answer, IRQEN and the flags DONE, ERR and ERRCODE of a block that runs a
command. -/
theorem handle_host_of_running (s t : State) (acc : Access) (hp : s.phase ≠ .idle) (hsoft : ¬ acc.isSoftReset s.params)
    (h : s.handle (.host acc) = .next t) :
    ∃ x k i d e c, t = { s with response := x, freeCount := k, irqen := i, done := d, err := e, errCode := c } := by
  obtain ⟨c, hc⟩ := exists_running s hp
  obtain ⟨x, rfl⟩ | rfl | ⟨v, hw, haddr, hk, rfl⟩ | ⟨w, -, hcmd⟩ | ⟨v, -, rfl⟩ | ⟨v, rfl⟩ | ⟨v, rfl⟩ |
    ⟨x, j, v, -, -, rfl⟩ := handle_host_cases s acc t h
  · exact ⟨_, _, _, _, _, _, rfl⟩
  · exact ⟨_, _, _, _, _, _, rfl⟩
  · have hv : v.getLsbD 31 = false := by
      rw [← Bool.not_eq_true]
      exact fun hsrst => hsoft ⟨hw, haddr, v, hk, hsrst⟩
    rw [writeCtrl_of_running (s.respond .written) v c hv hc]
    exact ⟨_, _, _, _, _, _, rfl⟩
  · rw [presentCommand_of_running (s.respond .written) w c hc] at hcmd
    injection hcmd with hcmd
    exact ⟨_, _, _, _, _, _, hcmd.symm⟩
  · exact ⟨_, _, _, _, _, _, rfl⟩
  · rw [writeLen_of_running (s.respond .written) v c hc]
    exact ⟨_, _, _, _, _, _, rfl⟩
  · rw [writeRounds_of_running (s.respond .written) v c hc]
    exact ⟨_, _, _, _, _, _, rfl⟩
  · rw [writeOperandWord_of_running (s.respond .written) x j v c hc]
    exact ⟨_, _, _, _, _, _, rfl⟩

/-- Settles O35: none of the fields that an access changes is one of the running command. -/
theorem runningCommandUndisturbed : Obligations.RunningCommandUndisturbed := by
  unfold Obligations.RunningCommandUndisturbed
  intro s t acc hp hsoft h
  obtain ⟨x, k, i, d, e, c, rfl⟩ := handle_host_of_running s t acc hp hsoft h
  exact ⟨rfl, rfl, rfl, rfl, rfl, rfl, rfl, rfl, rfl, rfl, rfl, rfl, rfl⟩

/-! ### Big-endian bytes (20_memory.md R45) -/

/-- The `k` bytes of `m` are those of its low `8*k` bits. -/
theorem natOfBytes_bytesOfNat (k m : Nat) : natOfBytes (bytesOfNat k m) = m % 256 ^ k := by
  induction k with
  | zero => rw [Nat.pow_zero, Nat.mod_one]; rfl
  | succ k ih =>
    rw [bytesOfNat, natOfBytes_cons, bytesOfNat_length, ih, BitVec.toNat_ofNat,
      Nat.mod_pow_succ (b := 256), Nat.add_comm, Nat.mul_comm]

/-- What stands above the `k` bytes does not matter. -/
theorem bytesOfNat_mul_add (k c m : Nat) : bytesOfNat k (c * 256 ^ k + m) = bytesOfNat k m := by
  induction k generalizing c with
  | zero => rfl
  | succ k ih =>
    have hsplit : c * 256 ^ (k + 1) + m = c * 256 * 256 ^ k + m := by ring
    have hbyte : (c * 256 * 256 ^ k + m) / 256 ^ k = m / 256 ^ k + 256 * c := by
      rw [Nat.add_comm, Nat.add_mul_div_right _ _ (by positivity), Nat.mul_comm c]
    rw [bytesOfNat, bytesOfNat, hsplit, ih, hbyte]
    congr 1
    apply BitVec.eq_of_toNat_eq
    simp

theorem bytesOfNat_natOfBytes (l : List Byte) : bytesOfNat l.length (natOfBytes l) = l := by
  induction l with
  | nil => rfl
  | cons x rest ih =>
    have hrest := natOfBytes_lt rest
    have hbyte : (x.toNat * 256 ^ rest.length + natOfBytes rest) / 256 ^ rest.length = x.toNat := by
      rw [Nat.add_comm, Nat.add_mul_div_right _ _ (by positivity), Nat.div_eq_of_lt hrest, Nat.zero_add]
    rw [List.length_cons, natOfBytes_cons, bytesOfNat, bytesOfNat_mul_add, ih, hbyte, BitVec.ofNat_toNat,
      BitVec.setWidth_eq]

/-- Byte `i` of `k` stands `k - 1 - i` bytes above the lowest. -/
theorem bytesOfNat_getElem? (k m i : Nat) (h : i < k) :
    (bytesOfNat k m)[i]? = some (BitVec.ofNat 8 (m / 2 ^ (8 * (k - 1 - i)))) := by
  induction k generalizing i with
  | zero => omega
  | succ k ih =>
    cases i with
    | zero => simp [bytesOfNat, Nat.pow_mul]
    | succ i =>
      rw [bytesOfNat, List.getElem?_cons_succ, ih i (by omega), show k + 1 - 1 - (i + 1) = k - 1 - i by omega]

/-- Settles O49: the bytes and the integer determine each other, and each byte is read off by induction on their number. -/
theorem bigEndianBuffers : Obligations.BigEndianBuffers := by
  unfold Obligations.BigEndianBuffers
  exact ⟨fun k m hm => (natOfBytes_bytesOfNat k m).trans (Nat.mod_eq_of_lt hm), bytesOfNat_natOfBytes, bytesOfNat_getElem?⟩

end Sys2Proof.Machine

/-! SUPPORT. Proofs about the decoder and the steps (30_encoding.md R53, R55, R56): decoding and encoding are inverse on words and on
bytes, each refusal has its reason, and a step runs the command that its word decodes to. -/

namespace Sys2Proof

/-! ### Decoding words (30_encoding.md R53, R55, R56) -/

theorem decode_encode (i : Instr) : decode (encode i) = .ok i := by
  simp [decode, lookup_opcodeOf]

theorem decode_eq_ok_iff (w : Word) (i : Instr) : decode w = .ok i ↔ w = encode i := by
  constructor
  · intro h
    obtain ⟨j, hj, rfl⟩ | ⟨he, -⟩ | ⟨he, -⟩ := decode_cases w
    · rw [hj] at h
      injection h with h
      rw [h]
    · rw [he] at h; cases h
    · rw [he] at h; cases h
  · rintro rfl
    exact decode_encode i

/-- A word is refused for its RSVD exactly when that field is not 0 (30_encoding.md R53). -/
theorem decode_eq_rsvdNonZero_iff (w : Word) : decode w = .error .rsvdNonZero ↔ rsvdField w ≠ 0#24 := by
  obtain ⟨i, hd, rfl⟩ | ⟨hd, hr⟩ | ⟨hd, hr, -⟩ := decode_cases w
  · simp [hd]
  · simp [hd, hr]
  · simp [hd, hr]

/-- A word is refused for its OPCODE exactly when RSVD is 0 and OPCODE is 0x07 or more (30_encoding.md R55). -/
theorem decode_eq_reservedOpcode_iff (w : Word) :
    decode w = .error .reservedOpcode ↔ rsvdField w = 0#24 ∧ 0x07 ≤ (opcodeField w).toNat := by
  obtain ⟨i, hd, rfl⟩ | ⟨hd, hr⟩ | ⟨hd, hr, ho⟩ := decode_cases w
  · have hop : (opcodeOf i).toNat < 0x07 := by cases i <;> decide
    simp [hd, hop]
  · simp [hd, hr]
  · simp [hd, hr, ho]

/-- No word is too short. -/
theorem decode_ne_truncated (w : Word) : decode w ≠ .error .truncated := by
  obtain ⟨i, hd, -⟩ | ⟨hd, -⟩ | ⟨hd, -⟩ := decode_cases w <;> simp [hd]

/-- Settles O1: seven encodings, one word of a reserved OPCODE and one with RSVD other than 0. -/
theorem sevenCommandWordsDecode : Obligations.SevenCommandWordsDecode := by
  unfold Obligations.SevenCommandWordsDecode
  exact ⟨decode_encode .nop, decode_encode .montmul, decode_encode .rsq, decode_encode .modexp, decode_encode .mrround,
    decode_encode .mrtest, decode_encode .modinv, (decode_eq_reservedOpcode_iff _).2 (by decide),
    (decode_eq_rsvdNonZero_iff _).2 (by decide)⟩

/-! ### Decoding bytes, lowest lane first (20_memory.md R44) -/

theorem decodeBytes_of_ok (b0 b1 b2 b3 : Byte) (rest : List Byte) (i : Instr)
    (h : decode (wordOfLanes b0 b1 b2 b3) = .ok i) : decodeBytes (b0 :: b1 :: b2 :: b3 :: rest) = .ok (i, rest) := by
  rw [decodeBytes, h]

theorem decodeBytes_of_error (b0 b1 b2 b3 : Byte) (rest : List Byte) (e : DecodeRefusal)
    (h : decode (wordOfLanes b0 b1 b2 b3) = .error e) : decodeBytes (b0 :: b1 :: b2 :: b3 :: rest) = .error e := by
  rw [decodeBytes, h]

/-- Four bytes are refused exactly as the word of their lanes is. -/
theorem decodeBytes_eq_error_iff (b0 b1 b2 b3 : Byte) (rest : List Byte) (e : DecodeRefusal) :
    decodeBytes (b0 :: b1 :: b2 :: b3 :: rest) = .error e ↔ decode (wordOfLanes b0 b1 b2 b3) = .error e := by
  cases hd : decode (wordOfLanes b0 b1 b2 b3) with
  | ok i => simp [decodeBytes_of_ok b0 b1 b2 b3 rest i hd]
  | error r => simp [decodeBytes_of_error b0 b1 b2 b3 rest r hd]

theorem decodeBytes_of_short (l : List Byte) (h : l.length < 4) : decodeBytes l = .error .truncated := by
  match l with
  | [] | [_] | [_, _] | [_, _, _] => rfl
  | _ :: _ :: _ :: _ :: _ => simp only [List.length_cons] at h; omega

/-- A list of bytes is shorter than a command word, or it is four lanes and a rest. -/
theorem short_or_lanes (l : List Byte) : l.length < 4 ∨ ∃ b0 b1 b2 b3 rest, l = b0 :: b1 :: b2 :: b3 :: rest := by
  match l with
  | [] | [_] | [_, _] | [_, _, _] => exact .inl (by simp)
  | b0 :: b1 :: b2 :: b3 :: rest => exact .inr ⟨b0, b1, b2, b3, rest, rfl⟩

theorem decodeBytes_eq_truncated_iff (l : List Byte) : decodeBytes l = .error .truncated ↔ l.length < 4 := by
  obtain h | ⟨b0, b1, b2, b3, rest, rfl⟩ := short_or_lanes l
  · exact iff_of_true (decodeBytes_of_short l h) h
  · refine iff_of_false ?_ (by simp)
    rw [decodeBytes_eq_error_iff]
    exact decode_ne_truncated _

/-- Four bytes are a command's bytes exactly when the word of their lanes is its encoding (20_memory.md R44). -/
theorem lanes_eq_encodeBytes_iff (b0 b1 b2 b3 : Byte) (i : Instr) :
    [b0, b1, b2, b3] = encodeBytes i ↔ wordOfLanes b0 b1 b2 b3 = encode i := by
  constructor
  · intro h
    simp only [encodeBytes, List.cons.injEq, and_true] at h
    obtain ⟨rfl, rfl, rfl, rfl⟩ := h
    exact wordOfLanes_lanes (encode i)
  · intro h
    obtain ⟨h0, h1, h2, h3⟩ := lanes_wordOfLanes b0 b1 b2 b3
    rw [encodeBytes, ← h, h0, h1, h2, h3]

theorem decodeBytes_encodeBytes (i : Instr) (rest : List Byte) :
    decodeBytes (encodeBytes i ++ rest) = .ok (i, rest) :=
  decodeBytes_of_ok _ _ _ _ rest i (by rw [wordOfLanes_lanes, decode_encode])

theorem decodeBytes_eq_ok_iff (l : List Byte) (i : Instr) (rest : List Byte) :
    decodeBytes l = .ok (i, rest) ↔ l = encodeBytes i ++ rest := by
  constructor
  · intro h
    obtain hs | ⟨b0, b1, b2, b3, tail, rfl⟩ := short_or_lanes l
    · rw [decodeBytes_of_short l hs] at h; cases h
    · cases hd : decode (wordOfLanes b0 b1 b2 b3) with
      | error e => rw [decodeBytes_of_error _ _ _ _ tail e hd] at h; cases h
      | ok j =>
        rw [decodeBytes_of_ok _ _ _ _ tail j hd] at h
        cases h
        rw [← (lanes_eq_encodeBytes_iff b0 b1 b2 b3 i).2 ((decode_eq_ok_iff _ i).1 hd)]
        rfl
  · rintro rfl
    exact decodeBytes_encodeBytes i rest

/-- Settles O2: words by the three cases of the decoder, bytes through the word of their lanes. -/
theorem decodeAndEncodeAgree : Obligations.DecodeAndEncodeAgree := by
  unfold Obligations.DecodeAndEncodeAgree
  exact ⟨decode_eq_ok_iff, decodeBytes_eq_ok_iff, decode_eq_rsvdNonZero_iff, decode_eq_reservedOpcode_iff,
    decodeBytes_eq_error_iff, decodeBytes_eq_truncated_iff⟩

end Sys2Proof

namespace Sys2Proof.Machine

/-! ### Steps (40_command_lifecycle.md R61, R64) -/

theorem engineStep_of_running (s : State) (cur : Instr) (hp : s.phase = .running cur) : s.engineStep = exec cur s := by
  rw [State.engineStep, hp]

/-- A CMD write of a legal word while idle is the accept of its command (40_command_lifecycle.md R61). -/
theorem handle_cmd_of_decode (s : State) (w : Word) (i : Instr) (hp : s.phase = .idle) (hd : decode w = .ok i) :
    s.handle (wr s.params 0x000C w) = exec i (s.respond .written) := by
  rw [handle_cmd, presentCommand_of_decode (s.respond .written) w i hp hd]

theorem step_of_cmd (s : State) (w : Word) (i : Instr) (rest : List Event) (hp : s.phase = .idle)
    (hsched : s.schedule = wr s.params 0x000C w :: rest) (hd : decode w = .ok i) :
    step s = exec i { s with schedule := rest, response := .written } := by
  rw [step_of_cons s _ rest hsched]
  exact handle_cmd_of_decode { s with schedule := rest } w i hp hd

/-- The word placed at the head of the schedule is the one stored, of 32 bits (log 13). -/
theorem withFetchWord_schedule (s : State) (w : Nat) :
    (s.withFetchWord 32 w).schedule = wr s.params 0x000C (BitVec.ofNat 32 w) :: s.schedule := by
  have hw : tableWord 32 w = BitVec.ofNat 32 w := BitVec.eq_of_toNat_eq (by simp [tableWord])
  rw [State.withFetchWord, hw]
  rfl

/-- Settles O3: the head of the schedule is a CMD write or an engine event, or there is none. -/
theorem stepRunsDecodedCommand : Obligations.StepRunsDecodedCommand := by
  unfold Obligations.StepRunsDecodedCommand
  refine ⟨step_of_cmd, ?_, ?_, ?_⟩
  · intro s cur hp hsched
    rw [step_of_nil s hsched, engineStep_of_running s cur hp]
  · intro s cur rest hp hsched
    rw [step_of_cons s _ rest hsched]
    exact engineStep_of_running { s with schedule := rest } cur hp
  · intro s w i hp hd
    exact step_of_cmd (s.withFetchWord 32 w) _ i s.schedule hp (withFetchWord_schedule s w) hd

end Sys2Proof.Machine

/-! SUPPORT. Proofs about host programs (30_encoding.md R58): `ld` and `st` word by word, `wait` on an idle, a running and a starved
block, and the programs built of them. -/

namespace Sys2Proof.Machine

/-! ### `ld` (30_encoding.md R58) -/

/-- `x` with its low `k` words replaced by those of `v`. -/
def withLowWords (x v k : Nat) : Nat := 2 ^ (32 * k) * (x / 2 ^ (32 * k)) + v % 2 ^ (32 * k)

theorem testBit_withLowWords (x v k i : Nat) :
    (withLowWords x v k).testBit i = if i < 32 * k then v.testBit i else x.testBit i := by
  rw [withLowWords, Nat.testBit_two_pow_mul_add _ (Nat.mod_lt _ (Nat.two_pow_pos _))]
  split
  · rename_i h
    simp [Nat.testBit_mod_two_pow, h]
  · rename_i h
    rw [Nat.testBit_div_two_pow, Nat.sub_add_cancel (Nat.le_of_not_lt h)]

/-- Writing word `k` of `v` extends the low words by one. -/
theorem withOperandWord_withLowWords (x v k : Nat) :
    withOperandWord (withLowWords x v k) k (operandWord v k) = withLowWords x v (k + 1) := by
  apply Nat.eq_of_testBit_eq
  intro i
  rw [testBit_withOperandWord, testBit_withLowWords, testBit_withLowWords, getLsbD_operandWord]
  obtain hlow | ⟨hword, hin⟩ | habove : i < 32 * k ∨ (32 * k ≤ i ∧ i < 32 * k + 32) ∨ 32 * k + 32 ≤ i := by omega
  · rw [if_neg (by omega), if_pos hlow, if_pos (by omega)]
  · rw [if_pos ⟨hword, hin⟩, if_pos (by omega), Nat.add_sub_cancel' hword, decide_eq_true (by omega), Bool.true_and]
  · rw [if_neg (by omega), if_neg (by omega), if_neg (by omega)]

@[simp] theorem withLowWords_zero (x v : Nat) : withLowWords x v 0 = x := by
  simp [withLowWords, Nat.mod_one]

/-- All the words of two numbers that have no more. -/
theorem withLowWords_all (x v k : Nat) (hx : x < 2 ^ (32 * k)) (hv : v < 2 ^ (32 * k)) : withLowWords x v k = v := by
  rw [withLowWords, Nat.div_eq_of_lt hx, Nat.mod_eq_of_lt hv, Nat.mul_zero, Nat.zero_add]

theorem State.setOperand_op (s : State) (x : OpReg) : s.setOperand x (s.op x) = s := by
  cases x <;> rfl

theorem State.setOperand_setOperand (s : State) (x : OpReg) (v w : Nat) :
    (s.setOperand x v).setOperand x w = s.setOperand x w := by
  cases x <;> rfl

theorem State.respond_respond (s : State) (x y : Response) : (s.respond x).respond y = s.respond y := rfl

theorem ld_succ (p : Params) (x : OpReg) (v k : Nat) :
    ld p x v (k + 1) = ld p x v k ++ [wr p (windowBase x + 4 * k) (operandWord v k)] := by
  rw [ld, List.range_succ, List.map_append]
  rfl

/-- The first `k` writes of a load replace the low `k` words; any write leaves the normal response. -/
theorem runEvents_ld (s : State) (x : OpReg) (v k : Nat) (hx : x ≠ .R) (hp : s.phase = .idle) (hk : k ≤ s.params.maxw)
    (hm : s.params.maxw ≤ 1024) :
    ∃ y, (0 < k → y = .written) ∧
      s.runEvents (ld s.params x v k) = .next ((s.setOperand x (withLowWords (s.op x) v k)).respond y) := by
  induction k with
  | zero =>
    refine ⟨s.response, fun h => absurd h (Nat.lt_irrefl 0), ?_⟩
    rw [withLowWords_zero, State.setOperand_op]
    rfl
  | succ k ih =>
    obtain ⟨y, -, hrun⟩ := ih (by omega)
    refine ⟨.written, fun _ => rfl, ?_⟩
    have hwrite := handle_wr_operand_of_idle ((s.setOperand x (withLowWords (s.op x) v k)).respond y) x k
      (operandWord v k) hx (by simpa using hk) (by simpa using hm) (by simpa using hp)
    rw [State.op_respond, State.op_setOperand, if_pos rfl, withOperandWord_withLowWords, State.setOperand_respond,
      State.setOperand_setOperand, State.respond_respond, State.respond_params, State.setOperand_params] at hwrite
    rw [ld_succ, runEvents_append _ _ _ _ hrun, runEvents_cons _ _ _ _ hwrite, runEvents_nil]

/-- Settles O40: after the last word nothing of the old value is left. -/
theorem loadSequenceLoads : Obligations.LoadSequenceLoads := by
  unfold Obligations.LoadSequenceLoads
  intro s x v len hx hp hpos hlen hm hv hold
  obtain ⟨y, hy, hrun⟩ := runEvents_ld s x v len hx hp hlen hm
  rw [hrun, withLowWords_all _ _ _ hold hv, hy hpos]
  rfl

/-! ### `st` (30_encoding.md R58) -/

theorem handle_rd_R_of_idle (s : State) (j : Nat) (hp : s.phase = .idle) (hj : j < s.params.maxw)
    (hm : s.params.maxw ≤ 1024) :
    s.handle (rd s.params (windowBase .R + 4 * j)) = .next (s.respond (.data (operandWord s.r j))) := by
  rw [handle_rd_window s .R j hj hm, busRead_operandWord s .R j (.inr hp), State.op_R]

/-- Reads of words of R, in any order, change only the answer. -/
theorem runEvents_rd_R (s : State) (js : List Nat) (hp : s.phase = .idle) (hjs : ∀ j ∈ js, j < s.params.maxw)
    (hm : s.params.maxw ≤ 1024) :
    s.answers (js.map fun j => rd s.params (windowBase .R + 4 * j)) = js.map (fun j => .data (operandWord s.r j)) ∧
      ∃ x, s.runEvents (js.map fun j => rd s.params (windowBase .R + 4 * j)) = .next (s.respond x) := by
  induction js generalizing s with
  | nil => exact ⟨rfl, s.response, rfl⟩
  | cons j js ih =>
    have hread := handle_rd_R_of_idle s j hp (hjs j (by simp)) hm
    obtain ⟨hanswers, x, hrun⟩ := ih (s.respond (.data (operandWord s.r j))) hp (fun i hi => hjs i (by simp [hi])) hm
    refine ⟨?_, x, (runEvents_cons _ _ _ _ hread).trans hrun⟩
    rw [List.map_cons, State.answers, hread]
    exact congrArg _ hanswers

theorem operandWord_succ (x j : Nat) : operandWord x (j + 1) = operandWord (x / 2 ^ 32) j := by
  rw [operandWord, operandWord, ← Nat.shiftRight_eq_div_pow, ← Nat.shiftRight_add, Nat.mul_succ, Nat.add_comm]

/-- The first `len` words of a number are its low 32*len bits (30_encoding.md R54). -/
theorem valueOfAnswers_words (x len : Nat) :
    valueOfAnswers ((List.range len).map fun j => .data (operandWord x j)) = x % 2 ^ (32 * len) := by
  induction len generalizing x with
  | zero => rw [Nat.mul_zero, Nat.pow_zero, Nat.mod_one]; rfl
  | succ len ih =>
    rw [List.range_succ_eq_map, List.map_cons, List.map_map, valueOfAnswers, operandWord_toNat, Nat.mul_zero, Nat.pow_zero,
      Nat.div_one, Nat.mul_succ, Nat.add_comm (32 * len), pow_add, Nat.mod_mul, ← ih]
    simp only [Function.comp_def, operandWord_succ, Nat.succ_eq_add_one]

/-- `st L` on an idle block. -/
theorem runEvents_st (s : State) (len : Nat) (hp : s.phase = .idle) (hlen : len ≤ s.params.maxw)
    (hm : s.params.maxw ≤ 1024) :
    valueOfAnswers (s.answers (st s.params len)) = s.r % 2 ^ (32 * len) ∧
      ∃ x, s.runEvents (st s.params len) = .next (s.respond x) := by
  obtain ⟨hanswers, hrun⟩ := runEvents_rd_R s (List.range len) hp
    (fun j hj => (List.mem_range.1 hj).trans_le hlen) hm
  refine ⟨?_, hrun⟩
  rw [st, hanswers, valueOfAnswers_words]

/-- Settles O41: the answers are the words of R, and each read changes only the answer. -/
theorem storeSequenceReadsR : Obligations.StoreSequenceReadsR := by
  unfold Obligations.StoreSequenceReadsR
  exact runEvents_st

/-! ### Completions (40_command_lifecycle.md R64, R65) -/

theorem State.SameInputs.trans {s t u : State} (h : s.SameInputs t) (h' : t.SameInputs u) : s.SameInputs u where
  params := h'.params.trans h.params
  a := h'.a.trans h.a
  b := h'.b.trans h.b
  e := h'.e.trans h.e
  n := h'.n.trans h.n
  len := h'.len.trans h.len
  rounds := h'.rounds.trans h.rounds
  basesrc := h'.basesrc.trans h.basesrc

/-- The engine step of command `i` completes with R = `v` and RESULT = `f` from every state with the inputs of `s`: it reads
neither R nor the flags. -/
def State.Completes (s : State) (i : Instr) (v : Nat) (f : Bool) : Prop :=
  ∀ u, s.SameInputs u → u.phase = .running i → exec i u = .next (u.complete v f)

theorem State.Completes.of_sameInputs {s t : State} {i : Instr} {v : Nat} {f : Bool} (h : s.Completes i v f)
    (hin : s.SameInputs t) : t.Completes i v f :=
  fun u hu => h u (hin.trans hu)

theorem completes_montmul (s : State) : s.Completes .montmul (montProduct s.a s.b s.n s.len.toNat) true := by
  intro u hu hp
  rw [exec_montmul_of_running u _ hp, hu.a, hu.b, hu.n, hu.len]

theorem completes_rsq (s : State) : s.Completes .rsq (montConstant s.n s.len.toNat) true := by
  intro u hu hp
  rw [exec_rsq_of_running u _ hp, hu.n, hu.len]

theorem completes_modexp (s : State) : s.Completes .modexp (powMod s.a s.e s.n) true := by
  intro u hu hp
  rw [exec_modexp_of_running u _ hp, hu.a, hu.e, hu.n]

theorem completes_mrround (s : State) :
    s.Completes .mrround (flagValue (millerRabin s.n s.a)) (millerRabin s.n s.a) := by
  intro u hu hp
  rw [exec_mrround_of_running u _ hp, hu.a, hu.n]
  rfl

theorem exists_completes_modinv (s : State) : ∃ v f, s.Completes .modinv v f := by
  cases hv : modInv s.a s.n with
  | some v => exact ⟨v, true, fun u hu hp => by rw [exec_modinv_of_running u _ hp, hu.a, hu.n, hv]; rfl⟩
  | none => exact ⟨0, false, fun u hu hp => by rw [exec_modinv_of_running u _ hp, hu.a, hu.n, hv]; rfl⟩

/-- An MRTEST over the fixed table, or of a trivial candidate (43_primality.md R79). -/
theorem exists_completes_mrtest (s : State) (h : drawsNothing s .mrtest) : ∃ v f, s.Completes .mrtest v f := by
  cases hv : trivialVerdict s.n with
  | some f =>
    refine ⟨flagValue f, f, fun u hu hp => ?_⟩
    rw [exec_mrtest_of_running u _ hp, mrtestEngine, State.op_N, hu.n, hv]
    rfl
  | none =>
    have hb : s.basesrc = false := by
      have hn := (trivialVerdict_eq_none_iff s.n).1 hv
      obtain hne | hb | hsmall | heven := h
      · exact absurd rfl hne
      · exact hb
      · omega
      · omega
    refine ⟨flagValue (fixedVerdict s.n s.rounds.toNat), fixedVerdict s.n s.rounds.toNat, fun u hu hp => ?_⟩
    rw [exec_mrtest_of_running u _ hp, mrtestEngine, State.op_N, hu.n, hu.rounds, hu.basesrc, hv, hb]
    rfl

/-- A command that draws nothing completes in one engine step (log 9). -/
theorem exists_completes (s : State) (i : Instr) (hi : i ≠ .nop) (h : drawsNothing s i) : ∃ v f, s.Completes i v f := by
  cases i with
  | nop => exact absurd rfl hi
  | montmul => exact ⟨_, _, completes_montmul s⟩
  | rsq => exact ⟨_, _, completes_rsq s⟩
  | modexp => exact ⟨_, _, completes_modexp s⟩
  | mrround => exact ⟨_, _, completes_mrround s⟩
  | mrtest => exact exists_completes_mrtest s h
  | modinv => exact exists_completes_modinv s

/-- A command that draws nothing has no entropy request (43_primality.md R78). -/
theorem State.Inv.noRequest_of_drawsNothing {s : State} (hs : s.Inv) (i : Instr) (hp : s.phase = .running i)
    (h : drawsNothing s i) : s.entropy = .none := by
  by_contra hn
  obtain ⟨hrun, hdraw, hcand, -, -⟩ := hs.request hn
  rw [State.op_N, trivialVerdict_eq_none_iff] at hcand
  rw [hp] at hrun
  injection hrun with hrun
  obtain hne | hb | hsmall | heven := h
  · exact hne hrun
  · rw [hb] at hdraw; cases hdraw
  · omega
  · omega

/-! ### `wait` (30_encoding.md R58) -/

/-- Without a request, what is not the engine's completing step changes only R and the free-value counter. -/
theorem handle_quiet_of_noRequest (s : State) (ev : Event) (hnone : s.entropy = .none) (hhost : ∀ acc, ev ≠ .host acc)
    (hreset : ev ≠ .hardwareReset) (hengine : ev ≠ .engine) :
    ∃ r k, s.handle ev = .next { s with r := r, freeCount := k } := by
  cases ev with
  | host acc => exact absurd rfl (hhost acc)
  | hardwareReset => exact absurd rfl hreset
  | engine => exact absurd rfl hengine
  | engineInternal =>
    obtain he | he := internalStep_cases s
    · exact ⟨_, _, congrArg _ he⟩
    · exact ⟨_, _, congrArg _ he⟩
  | entropy v =>
    obtain ⟨hreq, -⟩ | he := offerEntropy_cases s v
    · rw [hnone] at hreq; cases hreq
    · exact ⟨_, _, congrArg _ he⟩

theorem runEvents_quiet_of_noRequest (s : State) (batch : List Event) (hnone : s.entropy = .none) (hq : quiet batch)
    (hengine : Event.engine ∉ batch) : ∃ r k, s.runEvents batch = .next { s with r := r, freeCount := k } := by
  induction batch generalizing s with
  | nil => exact ⟨s.r, s.freeCount, rfl⟩
  | cons ev batch ih =>
    obtain ⟨hhost, hreset⟩ := hq ev (by simp)
    obtain ⟨r, k, hev⟩ := handle_quiet_of_noRequest s ev hnone hhost hreset fun he => hengine (by simp [he])
    obtain ⟨r', k', hrest⟩ := ih { s with r := r, freeCount := k } hnone (fun e he => hq e (by simp [he]))
      fun he => hengine (by simp [he])
    exact ⟨r', k', (runEvents_cons _ _ _ _ hev).trans hrest⟩

theorem State.complete_settled (s : State) (v : Nat) (f : Bool) : (s.complete v f).Settled s.params := ⟨rfl, rfl, rfl⟩

/-- Quiet traffic with the engine's step in it leaves the completion (40_command_lifecycle.md R64). -/
theorem runEvents_completing (s : State) (i : Instr) (v : Nat) (f : Bool) (batch : List Event) (hp : s.phase = .running i)
    (hnone : s.entropy = .none) (hc : s.Completes i v f) (hq : quiet batch) (hengine : Event.engine ∈ batch) :
    ∃ k, s.runEvents batch = .next { s.complete v f with freeCount := k } := by
  obtain ⟨before, after, rfl, hfirst⟩ := List.eq_append_cons_of_mem hengine
  obtain ⟨r, k, hbefore⟩ := runEvents_quiet_of_noRequest s before hnone (fun e he => hq e (by simp [he])) hfirst
  have hstep : ({ s with r := r, freeCount := k } : State).handle .engine = .next { s.complete v f with freeCount := k } :=
    (engineStep_of_running { s with r := r, freeCount := k } i hp).trans (hc { s with r := r, freeCount := k } {} hp)
  have hafter := ({ s with freeCount := k } : State).complete_settled v f |>.runEvents_quiet after
    fun e he => hq e (by simp [he])
  exact ⟨k, (runEvents_append _ _ _ _ hbefore).trans ((runEvents_cons _ _ _ _ hstep).trans hafter)⟩

/-- `wait` while a command runs that completes in one engine step: it reads STATUS until then (40_command_lifecycle.md R64). -/
theorem wait_of_completes (s : State) (i : Instr) (v : Nat) (f : Bool) (during rest : Traffic) (hp : s.phase = .running i)
    (hnone : s.entropy = .none) (hc : s.Completes i v f) (hd : completingTraffic during) :
    ∃ k, wait s.params s (during ++ rest) = .done (s.complete v f).statusWord
      { s.complete v f with response := .data (s.complete v f).statusWord, freeCount := k } rest := by
  obtain ⟨polls, last, rfl, hquiet, hpolls, hlast⟩ := hd
  induction polls generalizing s with
  | nil =>
    obtain ⟨k, hrun⟩ := runEvents_completing s i v f last hp hnone hc (hquiet last (by simp)) hlast
    exact ⟨k, wait_of_not_busy s.params s { s.complete v f with freeCount := k } last rest rfl hrun rfl⟩
  | cons batch polls ih =>
    obtain ⟨r, k, hrun⟩ := runEvents_quiet_of_noRequest s batch hnone (hquiet batch (by simp)) (hpolls batch (by simp))
    have hbusy := wait_of_busy s.params s { s with r := r, freeCount := k } batch (polls ++ [last] ++ rest) rfl hrun
      (State.busy_of_running _ i hp)
    obtain ⟨k', hwait⟩ := ih { s with r := r, freeCount := k, response := .data s.statusWord } hp hnone
      (hc.of_sameInputs {}) (fun b hb => hquiet b (List.mem_cons_of_mem _ hb)) fun b hb => hpolls b (by simp [hb])
    exact ⟨k', hbusy.trans hwait⟩

/-- The engine waits for a base: it asked for one and has not got it (60_exceptions.md R100, 70_reset_and_hazards.md R116). -/
structure State.Starved (s : State) : Prop where
  running : s.phase = .running .mrtest
  requested : s.entropy = .requested
  drawing : s.basesrc = true
  candidate : trivialVerdict s.n = none

theorem State.Inv.starved {s : State} (hs : s.Inv) (h : s.entropy = .requested) : s.Starved := by
  obtain ⟨hrun, hdraw, hcand, -, -⟩ := hs.request (by rw [h]; decide)
  exact ⟨hrun, h, hdraw, hcand⟩

/-- An event that brings a waiting engine no base. -/
def givesNoBase (n : Nat) (ev : Event) : Prop :=
  ev = .engine ∨ ev = .engineInternal ∨ ∃ v, ev = .entropy v ∧ (v < 2 ∨ n - 2 < v)

/-- A starved engine takes no step (60_exceptions.md R100). -/
theorem State.Starved.handle {s : State} (h : s.Starved) (ev : Event) (hev : givesNoBase s.n ev) :
    s.handle ev = .next s := by
  obtain rfl | rfl | ⟨v, rfl, hv⟩ := hev
  · refine (engineStep_of_running s _ h.running).trans ((exec_mrtest_of_running s _ h.running).trans ?_)
    simp only [mrtestEngine, State.op_N, h.candidate, h.drawing, h.requested, if_true]
  · simp [State.handle, State.internalStep, State.waiting, h.requested]
  · obtain ⟨-, hlow, hhigh, -⟩ | he := offerEntropy_cases s v
    · omega
    · exact congrArg _ he

theorem State.Starved.runEvents {s : State} (h : s.Starved) (batch : List Event)
    (hb : ∀ ev ∈ batch, givesNoBase s.n ev) : s.runEvents batch = .next s := by
  induction batch with
  | nil => rfl
  | cons ev batch ih =>
    rw [runEvents_cons _ _ _ _ (h.handle ev (hb ev (by simp)))]
    exact ih fun e he => hb e (by simp [he])

/-- `wait` of a starved engine reads STATUS as long as there is traffic (70_reset_and_hazards.md R116). -/
theorem State.Starved.wait {s : State} (h : s.Starved) (traffic : Traffic)
    (ht : ∀ batch ∈ traffic, ∀ ev ∈ batch, givesNoBase s.n ev) :
    ∃ x, Machine.wait s.params s traffic = .pending { s with response := x } := by
  induction traffic generalizing s with
  | nil => exact ⟨s.response, rfl⟩
  | cons batch traffic ih =>
    have hbusy := wait_of_busy s.params s s batch traffic rfl (h.runEvents batch (ht batch (by simp)))
      (s.busy_of_running _ h.running)
    obtain ⟨x, hx⟩ := ih (s := { s with response := .data s.statusWord }) ⟨h.running, h.requested, h.drawing, h.candidate⟩
      fun b hb => ht b (by simp [hb])
    exact ⟨x, hbusy.trans hx⟩

/-- `wait` of an idle block reads STATUS once. -/
theorem State.Settled.wait {s : State} {p : Params} (h : s.Settled p) (batch : List Event) (rest : Traffic)
    (hq : quiet batch) :
    Machine.wait p s (batch :: rest) = .done s.statusWord { s with response := .data s.statusWord } rest :=
  wait_of_not_busy p s s batch rest h.params (h.runEvents_quiet batch hq) (s.busy_of_idle h.idle)

/-- Settles O57: by what the block does between two reads: nothing, scratch work up to the completion, or waiting. -/
theorem waitPollsUntilIdle : Obligations.WaitPollsUntilIdle := by
  unfold Obligations.WaitPollsUntilIdle
  intro s hs
  refine ⟨fun hp batch rest hq => (hs.settled hp).wait batch rest hq, ?_, ?_⟩
  · intro i during rest hp hdraw hd
    obtain ⟨v, f, hc⟩ := exists_completes s i (hs.running i hp).notNop hdraw
    obtain ⟨k, hwait⟩ := wait_of_completes s i v f during rest hp (hs.noRequest_of_drawsNothing i hp hdraw) hc hd
    exact ⟨s.complete v f, k, hc s {} hp, statusWord_bit0 _, hwait⟩
  · intro traffic hreq ht
    exact (hs.starved hreq).wait traffic ht

end Sys2Proof.Machine

/-! SUPPORT. Proofs about the programs of 30_encoding.md R58 that run commands: what `st`, `ld`, `mov R->X` and a command leave of a
settled block under quiet traffic, and the arithmetic of `tomont`, `frommont` and `modmul`. -/

namespace Sys2Proof.Machine

/-! ### Traffic -/

theorem quietTraffic_add (m n : Nat) (traffic : Traffic) (h : quietTraffic (m + n) traffic) :
    ∃ first second, traffic = first ++ second ∧ quietTraffic m first ∧ quietTraffic n second := by
  obtain ⟨hlength, hquiet⟩ := h
  refine ⟨traffic.take m, traffic.drop m, (List.take_append_drop m traffic).symm, ⟨?_, ?_⟩, ⟨?_, ?_⟩⟩
  · rw [List.length_take, hlength, Nat.min_eq_left (Nat.le_add_right m n)]
  · exact fun batch hb => hquiet batch (List.mem_of_mem_take hb)
  · rw [List.length_drop, hlength, Nat.add_sub_cancel_left]
  · exact fun batch hb => hquiet batch (List.mem_of_mem_drop hb)

theorem quietTraffic_one (traffic : Traffic) (h : quietTraffic 1 traffic) : ∃ batch, traffic = [batch] ∧ quiet batch := by
  obtain ⟨hlength, hquiet⟩ := h
  obtain ⟨batch, rfl⟩ := List.length_eq_one_iff.1 hlength
  exact ⟨batch, rfl, hquiet batch (by simp)⟩

/-! ### `st`, `ld` and `mov R->X` under quiet traffic (30_encoding.md R58) -/

theorem State.Settled.respond {s : State} {p : Params} (h : s.Settled p) (x : Response) : (s.respond x).Settled p :=
  ⟨h.idle, h.noRequest, h.params⟩

theorem State.Settled.setOperand {s : State} {p : Params} (h : s.Settled p) (x : OpReg) (v : Nat) :
    (s.setOperand x v).Settled p :=
  ⟨(s.setOperand_phase x v).trans h.idle, (s.setOperand_entropy x v).trans h.noRequest,
    (s.setOperand_params x v).trans h.params⟩

/-- `st L` reads the low 32*L bits of R. -/
theorem State.Settled.readR {s : State} {p : Params} (h : s.Settled p) (len : Nat) (hlen : len ≤ p.maxw)
    (hm : p.maxw ≤ 1024) (traffic rest : Traffic) (ht : quietTraffic len traffic) :
    ∃ x, Machine.readR p len s (traffic ++ rest) = .done (s.r % 2 ^ (32 * len)) (s.respond x) rest := by
  have hstep : ∀ u : State, u.Settled p → ∀ ev ∈ st p len, (∃ acc, ev = .host acc) ∧
      ∃ t : State, u.handle ev = .next t ∧ t.Settled p ∧ (t.response = .written ∨ ∃ w, t.response = .data w) := by
    intro u hu ev hev
    obtain ⟨j, hj, rfl⟩ := List.mem_map.1 hev
    obtain rfl := hu.params
    exact ⟨⟨_, rfl⟩, _, handle_rd_R_of_idle u j hu.idle ((List.mem_range.1 hj).trans_le hlen) hm, hu.respond _,
      .inr ⟨_, rfl⟩⟩
  obtain rfl := h.params
  obtain ⟨t, hrun, -, hacc⟩ := h.accesses (st s.params len) hstep traffic rest (by simp [st, ht.1]) ht.2
  obtain ⟨hvalue, x, hst⟩ := runEvents_st s len h.idle hlen hm
  rw [hrun] at hst
  injection hst with hst
  subst hst
  refine ⟨x, (Program.andThen_of_done _ _ _ _ _ _ _ hacc).trans ?_⟩
  rw [hvalue]
  rfl

/-- `ld X, V, L` of a value and over a value of at most L words. -/
theorem State.Settled.load {s : State} {p : Params} (h : s.Settled p) (x : OpReg) (v len : Nat) (hx : x ≠ .R)
    (hpos : 0 < len) (hlen : len ≤ p.maxw) (hm : p.maxw ≤ 1024) (hv : v < 2 ^ (32 * len)) (hold : s.op x < 2 ^ (32 * len))
    (traffic rest : Traffic) (ht : quietTraffic len traffic) :
    ∃ xs, Machine.accesses (ld p x v len) s (traffic ++ rest) = .done xs ((s.setOperand x v).respond .written) rest := by
  have hstep : ∀ u : State, u.Settled p → ∀ ev ∈ ld p x v len, (∃ acc, ev = .host acc) ∧
      ∃ t : State, u.handle ev = .next t ∧ t.Settled p ∧ (t.response = .written ∨ ∃ w, t.response = .data w) := by
    intro u hu ev hev
    obtain ⟨j, hj, rfl⟩ := List.mem_map.1 hev
    obtain rfl := hu.params
    exact ⟨⟨_, rfl⟩, _, handle_wr_operand_of_idle u x j _ hx ((List.mem_range.1 hj).trans_le hlen) hm hu.idle,
      (hu.setOperand x _).respond _, .inl rfl⟩
  obtain rfl := h.params
  obtain ⟨t, hrun, -, hacc⟩ := h.accesses (ld s.params x v len) hstep traffic rest (by simp [ld, ht.1]) ht.2
  rw [loadSequenceLoads s x v len hx h.idle hpos hlen hm hv hold] at hrun
  injection hrun with hrun
  subst hrun
  exact ⟨_, hacc⟩

/-- `mov R->X, L` of an R of at most L words copies R. -/
theorem State.Settled.movR {s : State} {p : Params} (h : s.Settled p) (x : OpReg) (v len : Nat) (hx : x ≠ .R)
    (hpos : 0 < len) (hlen : len ≤ p.maxw) (hm : p.maxw ≤ 1024) (hr : s.r = v) (hv : v < 2 ^ (32 * len))
    (hold : s.op x < 2 ^ (32 * len)) (traffic rest : Traffic) (ht : quietTraffic (2 * len) traffic) :
    ∃ xs, Machine.movR p x len s (traffic ++ rest) = .done xs ((s.setOperand x v).respond .written) rest := by
  rw [Nat.two_mul] at ht
  obtain ⟨reads, writes, rfl, hreads, hwrites⟩ := quietTraffic_add _ _ _ ht
  obtain ⟨y, hread⟩ := h.readR len hlen hm reads (writes ++ rest) hreads
  rw [hr, Nat.mod_eq_of_lt hv] at hread
  obtain ⟨xs, hload⟩ := (h.respond y).load x v len hx hpos hlen hm hv (by rwa [State.op_respond]) writes rest hwrites
  rw [State.setOperand_respond, State.respond_respond] at hload
  rw [List.append_assoc]
  exact ⟨xs, (Program.andThen_of_done _ _ _ _ _ _ _ hread).trans hload⟩

/-! ### `cmd MNEMONIC; wait` (40_command_lifecycle.md R61, R65) -/

/-- `s` after command `i` is accepted and completes with R = `v` and RESULT = `f`, the port's answer is `x` and `k` free values
have been drawn. -/
def State.afterCommand (s : State) (i : Instr) (v : Nat) (f : Bool) (x : Response) (k : Nat) : State :=
  { completedWith (acceptedAs s (encode i) i) v f with response := x, freeCount := k }

theorem afterCommand_settled (s : State) (i : Instr) (v : Nat) (f : Bool) (x : Response) (k : Nat) :
    (s.afterCommand i v f x k).Settled s.params := ⟨rfl, rfl, rfl⟩

section AfterCommandFields

variable (s : State) (i : Instr) (v : Nat) (f : Bool) (x : Response) (k : Nat)

@[simp] theorem afterCommand_params : (s.afterCommand i v f x k).params = s.params := rfl
@[simp] theorem afterCommand_a : (s.afterCommand i v f x k).a = s.a := rfl
@[simp] theorem afterCommand_b : (s.afterCommand i v f x k).b = s.b := rfl
@[simp] theorem afterCommand_n : (s.afterCommand i v f x k).n = s.n := rfl
@[simp] theorem afterCommand_r : (s.afterCommand i v f x k).r = v := rfl
@[simp] theorem afterCommand_len : (s.afterCommand i v f x k).len = s.len := rfl
@[simp] theorem afterCommand_phase : (s.afterCommand i v f x k).phase = .idle := rfl

end AfterCommandFields

/-- DONE and RESULT are 1 and every other bit is 0 (10_state.md R28). -/
theorem afterCommand_statusWord (s : State) (i : Instr) (v : Nat) (x : Response) (k : Nat) :
    (s.afterCommand i v true x k).statusWord = 0x00000006#32 := by
  have hfields : (s.afterCommand i v true x k).statusWord =
      0#24 ++ errCodeBits .none ++ BitVec.ofBool false ++ BitVec.ofBool true ++ BitVec.ofBool true ++ BitVec.ofBool false := rfl
  rw [hfields]
  decide

/-- A CMD write of a command whose checks pass starts it (40_command_lifecycle.md R61). -/
theorem handle_cmd_of_pass (s : State) (i : Instr) (hp : s.phase = .idle) (hi : i ≠ .nop) (hc : checksOf i s = .none) :
    s.handle (cmd s.params i) = .next (acceptedAs (s.respond .written) (encode i) i) := by
  have hchecks : checksOf i (s.respond .written) = .none := (State.SameInputs.checksOf_eq {} i).trans hc
  rw [cmd, handle_cmd_of_decode s _ i hp (decode_encode i), exec_of_idle (s.respond .written) i hi hp, hchecks,
    accept_of_pass]
  rfl

/-- A command whose checks pass and that completes in one engine step, whatever the traffic around that step. -/
theorem State.Settled.command {s : State} {p : Params} (h : s.Settled p) (i : Instr) (v : Nat) (f : Bool) (hi : i ≠ .nop)
    (hchecks : checksOf i s = .none) (hc : s.Completes i v f) (start during rest : Traffic) (hstart : quietTraffic 1 start)
    (hd : completingTraffic during) :
    ∃ x k, Machine.command p i s (start ++ during ++ rest) =
      .done (s.afterCommand i v f x k).statusWord (s.afterCommand i v f x k) rest := by
  obtain rfl := h.params
  obtain ⟨batch, rfl, hq⟩ := quietTraffic_one start hstart
  have hcmd := h.access_cons _ _ batch (during ++ rest) hq (handle_cmd_of_pass s i h.idle hi hchecks)
  rw [ofAnswer_of_written _ _ rfl] at hcmd
  have hacc := accesses_cons _ [] _ _ _ _ [] _ _ _ hcmd rfl
  obtain ⟨k, hwait⟩ := wait_of_completes (acceptedAs (s.respond .written) (encode i) i) i v f during rest rfl h.noRequest
    (hc.of_sameInputs {}) hd
  exact ⟨_, k, (Program.andThen_of_done _ _ _ _ _ _ _ hacc).trans hwait⟩

/-! ### The checks of MONTMUL and RSQ pass (40_command_lifecycle.md R62) -/

/-- A legal LEN, and an odd modulus of at most LEN words. -/
structure State.ModulusOk (s : State) : Prop where
  lenPos : 0 < s.len.toNat
  lenLe : s.len.toNat ≤ s.params.maxw
  odd : s.n % 2 = 1
  fits : s.n < 2 ^ (32 * s.len.toNat)

/-- The proofs are `rfl` where `t` is an update of other fields. -/
theorem State.ModulusOk.congr {s t : State} (h : s.ModulusOk) (hparams : t.params = s.params := by rfl)
    (hlen : t.len = s.len := by rfl) (hn : t.n = s.n := by rfl) : t.ModulusOk where
  lenPos := by rw [hlen]; exact h.lenPos
  lenLe := by rw [hlen, hparams]; exact h.lenLe
  odd := by rw [hn]; exact h.odd
  fits := by rw [hn, hlen]; exact h.fits

theorem firstFailure_of_pass (checks : List (Bool × ErrCode)) (h : ∀ p ∈ checks, p.1 = false) :
    firstFailure checks = .none := by
  induction checks with
  | nil => rfl
  | cons p rest ih =>
    obtain ⟨hp, hrest⟩ := List.forall_mem_cons.1 h
    rw [firstFailure_cons, hp]
    exact ih hrest

theorem State.ModulusOk.lenLegal {s : State} (h : s.ModulusOk) : s.lenIllegal = false := by
  obtain ⟨hpos, hle, -, -⟩ := h
  rw [← Bool.not_eq_true, lenIllegal_iff]
  omega

theorem State.ModulusOk.nonzero {s : State} (h : s.ModulusOk) : s.modulusZero = false := by
  have hodd := h.odd
  rw [← Bool.not_eq_true, modulusZero_iff]
  omega

theorem State.ModulusOk.notEven {s : State} (h : s.ModulusOk) : s.modulusEven = false := by
  rw [← Bool.not_eq_true, modulusEven_iff, h.odd]
  decide

theorem tooWide_of_lt (s : State) (regs : List OpReg) (h : ∀ x ∈ regs, s.op x < 2 ^ (32 * s.len.toNat)) :
    s.tooWide regs = false := by
  rw [← Bool.not_eq_true, tooWide_iff]
  rintro ⟨x, hx, hwide⟩
  exact Nat.not_lt.2 hwide (h x hx)

theorem State.ModulusOk.rsqChecks_pass {s : State} (h : s.ModulusOk) : checksOf .rsq s = .none := by
  have hwidth : s.tooWide [.N] = false := tooWide_of_lt s _ (by simpa using h.fits)
  exact firstFailure_of_pass _ (by simp [h.lenLegal, hwidth, h.nonzero, h.notEven])

theorem State.ModulusOk.montmulChecks_pass {s : State} (h : s.ModulusOk) (ha : s.a < s.n) (hb : s.b < s.n) :
    checksOf .montmul s = .none := by
  have hwidth : s.tooWide [.A, .B, .N] = false :=
    tooWide_of_lt s _ (by simpa using ⟨ha.trans h.fits, hb.trans h.fits, h.fits⟩)
  have hrange : s.outOfRange = false := by
    rw [← Bool.not_eq_true, outOfRange_iff]
    omega
  exact firstFailure_of_pass _ (by simp [h.lenLegal, hwidth, h.nonzero, h.notEven, hrange])

/-! ### MONTMUL and RSQ as programs (41_montgomery.md R69, R70) -/

theorem State.Settled.montmul {s : State} {p : Params} (h : s.Settled p) (hmod : s.ModulusOk) (ha : s.a < s.n)
    (hb : s.b < s.n) (start during rest : Traffic) (hstart : quietTraffic 1 start) (hd : completingTraffic during) :
    ∃ x k, Machine.command p .montmul s (start ++ during ++ rest) =
      .done 0x00000006#32 (s.afterCommand .montmul (montProduct s.a s.b s.n s.len.toNat) true x k) rest := by
  obtain ⟨x, k, hrun⟩ := h.command .montmul _ true (by decide) (hmod.montmulChecks_pass ha hb) (completes_montmul s) start
    during rest hstart hd
  rw [afterCommand_statusWord] at hrun
  exact ⟨x, k, hrun⟩

theorem State.Settled.rsq {s : State} {p : Params} (h : s.Settled p) (hmod : s.ModulusOk) (start during rest : Traffic)
    (hstart : quietTraffic 1 start) (hd : completingTraffic during) :
    ∃ x k, Machine.command p .rsq s (start ++ during ++ rest) =
      .done 0x00000006#32 (s.afterCommand .rsq (montConstant s.n s.len.toNat) true x k) rest := by
  obtain ⟨x, k, hrun⟩ := h.command .rsq _ true (by decide) hmod.rsqChecks_pass (completes_rsq s) start during rest hstart hd
  rw [afterCommand_statusWord] at hrun
  exact ⟨x, k, hrun⟩

/-! ### What the programs come down to (30_encoding.md R58) -/

theorem tomont_of_done {p : Params} {s t u : State} {w : Word} {xs : List Response} {traffic moves rest : Traffic}
    (hrsq : command p .rsq s traffic = .done w t moves) (hmov : movR p .B s.len.toNat t moves = .done xs u rest) :
    tomont p s traffic = command p .montmul u rest := by
  rw [tomont, withLen_run, Program.andThen_of_done _ _ _ _ _ _ _ hrsq, Program.andThen_of_done _ _ _ _ _ _ _ hmov]

theorem frommont_of_done {p : Params} {s t : State} {xs : List Response} {traffic rest : Traffic}
    (hload : accesses (ld p .B 1 s.len.toNat) s traffic = .done xs t rest) :
    frommont p s traffic = command p .montmul t rest := by
  rw [frommont, withLen_run, Program.andThen_of_done _ _ _ _ _ _ _ hload]

/-- After its first product has moved into A, `modmul` is `tomont`. -/
theorem modmul_of_done {p : Params} {s t u : State} {w : Word} {xs : List Response} {traffic moves rest : Traffic}
    (hmont : command p .montmul s traffic = .done w t moves) (hmov : movR p .A s.len.toNat t moves = .done xs u rest)
    (hlen : u.len = s.len) : modmul p s traffic = tomont p u rest := by
  rw [modmul, withLen_run, Program.andThen_of_done _ _ _ _ _ _ _ hmont, Program.andThen_of_done _ _ _ _ _ _ _ hmov, tomont,
    withLen_run, hlen]

/-! ### Conversion into and out of Montgomery form (41_montgomery.md R71) -/

/-- The Montgomery product with RM^2 mod N multiplies by RM. -/
theorem montProduct_montConstant (a n len : Nat) (hn : n % 2 = 1) :
    montProduct a (montConstant n len) n len = a * 2 ^ (32 * len) % n := by
  rw [← radix]
  have hpos : 0 < n := by omega
  have hconstant : montConstant n len ≡ radix len * radix len [MOD n] := by
    rw [radix, ← pow_add, ← Nat.two_mul, ← Nat.mul_assoc]
    exact Nat.mod_modEq _ n
  have hcoprime : Nat.gcd n (radix len) = 1 := by
    rw [Nat.gcd_comm, ← gcd_mod_left]
    exact gcd_radix_of_odd n len hn
  have hproduct : montProduct a (montConstant n len) n len * radix len ≡ a * radix len * radix len [MOD n] :=
    calc montProduct a (montConstant n len) n len * radix len
        ≡ a * montConstant n len [MOD n] := montProduct_mul_radix a _ n len hn
      _ ≡ a * (radix len * radix len) [MOD n] := hconstant.mul_left a
      _ = a * radix len * radix len := (Nat.mul_assoc _ _ _).symm
  have hmod : montProduct a (montConstant n len) n len ≡ a * radix len [MOD n] :=
    Nat.ModEq.cancel_right_of_coprime hcoprime hproduct
  rw [← Nat.mod_eq_of_lt (montProduct_lt a (montConstant n len) n len hpos)]
  exact hmod

/-- `tomont`: RSQ, its result into B, MONTMUL. -/
theorem State.Settled.tomont {s : State} {p : Params} (h : s.Settled p) (hm : p.maxw ≤ 1024) (hmod : s.ModulusOk)
    (ha : s.a < s.n) (hb : s.b < 2 ^ (32 * s.len.toNat)) (start during1 move during2 rest : Traffic)
    (hstart : quietTraffic 1 start) (hd1 : completingTraffic during1) (hmove : quietTraffic (2 * s.len.toNat + 1) move)
    (hd2 : completingTraffic during2) :
    ∃ t, Machine.tomont p s (start ++ during1 ++ move ++ during2 ++ rest) = .done 0x00000006#32 t rest ∧
      t.r = s.a * 2 ^ (32 * s.len.toNat) % s.n ∧ t.a = s.a ∧ t.n = s.n ∧ t.len = s.len ∧ t.phase = .idle ∧
      t.statusWord = 0x00000006#32 := by
  obtain rfl := h.params
  obtain ⟨move1, start2, rfl, hmove1, hstart2⟩ := quietTraffic_add _ _ _ hmove
  have hconstant : montConstant s.n s.len.toNat < s.n := Nat.mod_lt _ (by omega)
  obtain ⟨x, k, hrsq⟩ := h.rsq hmod start during1 (move1 ++ (start2 ++ during2 ++ rest)) hstart hd1
  have h1 := afterCommand_settled s .rsq (montConstant s.n s.len.toNat) true x k
  obtain ⟨xs, hmov⟩ := h1.movR .B _ s.len.toNat (by decide) hmod.lenPos hmod.lenLe hm (by simp) (hconstant.trans hmod.fits)
    (by simpa using hb) move1
    (start2 ++ during2 ++ rest) hmove1
  obtain ⟨y, k', hmont⟩ := ((h1.setOperand .B (montConstant s.n s.len.toNat)).respond .written).montmul
    (hmod.congr (by simp) (by simp) (by simp)) (by simpa using ha) (by simpa using hconstant) start2 during2 rest hstart2 hd2
  have hrun := (tomont_of_done hrsq hmov).trans hmont
  have hr := montProduct_montConstant s.a s.n s.len.toNat hmod.odd
  exact ⟨_, Eq.trans (by simp only [List.append_assoc]) hrun, by simpa using hr, by simp, by simp, by simp, by simp,
    afterCommand_statusWord _ _ _ _ _⟩

/-- `frommont`: B = 1, MONTMUL. -/
theorem State.Settled.frommont {s : State} {p : Params} (h : s.Settled p) (hm : p.maxw ≤ 1024) (hmod : s.ModulusOk)
    (ha : s.a < s.n) (hb : s.b < 2 ^ (32 * s.len.toNat)) (hn : 1 < s.n) (start during rest : Traffic)
    (hstart : quietTraffic (s.len.toNat + 1) start) (hd : completingTraffic during) :
    ∃ t, Machine.frommont p s (start ++ during ++ rest) = .done 0x00000006#32 t rest ∧
      t.r < s.n ∧ t.r * 2 ^ (32 * s.len.toNat) % s.n = s.a ∧ t.a = s.a ∧ t.b = 1 ∧ t.n = s.n ∧ t.len = s.len ∧
      t.phase = .idle ∧ t.statusWord = 0x00000006#32 := by
  obtain rfl := h.params
  obtain ⟨loads, start1, rfl, hloads, hstart1⟩ := quietTraffic_add _ _ _ hstart
  obtain ⟨xs, hload⟩ := h.load .B 1 s.len.toNat (by decide) hmod.lenPos hmod.lenLe hm (hn.trans hmod.fits) hb loads
    (start1 ++ during ++ rest) hloads
  obtain ⟨x, k, hmont⟩ := ((h.setOperand .B 1).respond .written).montmul hmod.congr ha hn start1 during rest hstart1 hd
  have hproduct : montProduct s.a 1 s.n s.len.toNat * 2 ^ (32 * s.len.toNat) % s.n = s.a := by
    rw [← radix, montProduct_mul_radix _ _ _ _ hmod.odd, Nat.mul_one, Nat.mod_eq_of_lt ha]
  have hrun := (frommont_of_done hload).trans hmont
  have hlt := montProduct_lt s.a 1 s.n s.len.toNat (by omega)
  exact ⟨_, Eq.trans (by simp only [List.append_assoc]) hrun, by simpa using hlt, by simpa using hproduct, by simp, by simp,
    by simp, by simp, by simp, afterCommand_statusWord _ _ _ _ _⟩

/-- Settles O58: each program on the settled block that an idle one is. -/
theorem tomontAndFrommont : Obligations.TomontAndFrommont := by
  unfold Obligations.TomontAndFrommont
  intro s start during1 move during2 rest hs hp hpos hlen hodd hfits ha hb hd1
  have hset := hs.settled hp
  have hm := ((Params.wellFormed_iff s.params).1 hs.params).2
  have hmod : s.ModulusOk := ⟨hpos, hlen, hodd, hfits⟩
  exact ⟨fun hstart hmove hd2 => hset.tomont hm hmod ha hb start during1 move during2 rest hstart hd1 hmove hd2,
    fun hn hstart => hset.frommont hm hmod ha hb hn start during1 rest hstart hd1⟩

/-- Settles O43: MONTMUL, its result into A, and then `tomont`, which cancels the factor RM^-1 of the first product. -/
theorem modmulProgramMultiplies : Obligations.ModmulProgramMultiplies := by
  unfold Obligations.ModmulProgramMultiplies
  intro s start during1 move1 during2 move2 during3 rest hs hp hpos hlen hodd hfits ha hb hstart hd1 hmove1 hd2 hmove2 hd3
  have hset := hs.settled hp
  have hm := ((Params.wellFormed_iff s.params).1 hs.params).2
  have hmod : s.ModulusOk := ⟨hpos, hlen, hodd, hfits⟩
  have hproduct : montProduct s.a s.b s.n s.len.toNat < s.n := montProduct_lt _ _ _ _ (by omega)
  obtain ⟨moves, start2, rfl, hmoves, hstart2⟩ := quietTraffic_add _ _ _ hmove1
  obtain ⟨x, k, hmont⟩ := hset.montmul hmod ha hb start during1
    (moves ++ (start2 ++ during2 ++ move2 ++ during3 ++ rest)) hstart hd1
  have h1 := afterCommand_settled s .montmul (montProduct s.a s.b s.n s.len.toNat) true x k
  obtain ⟨xs, hmov⟩ := h1.movR .A _ s.len.toNat (by decide) hpos hlen hm (by simp) (hproduct.trans hfits)
    (by simpa using ha.trans hfits) moves (start2 ++ during2 ++ move2 ++ during3 ++ rest) hmoves
  obtain ⟨t, htomont, hr, -, hn, hl, hidle, hstatus⟩ :=
    ((h1.setOperand .A (montProduct s.a s.b s.n s.len.toNat)).respond .written).tomont hm
      (hmod.congr (by simp) (by simp) (by simp)) (by simpa using hproduct) (by simpa using hb.trans hfits) start2 during2 move2
      during3 rest hstart2 hd2 (by simpa using hmove2) hd3
  have hrun := (modmul_of_done hmont hmov (by simp)).trans htomont
  have hcancel : montProduct s.a s.b s.n s.len.toNat * 2 ^ (32 * s.len.toNat) % s.n = s.a * s.b % s.n :=
    montProduct_mul_radix s.a s.b s.n s.len.toNat hodd
  exact ⟨t, Eq.trans (by simp only [List.append_assoc]) hrun, by simpa [hcancel] using hr, by simpa using hn, by simpa using hl,
    hidle, hstatus⟩

end Sys2Proof.Machine

/-! SUPPORT. Proofs about the life of a command (40_command_lifecycle.md): the accept and its checks, NOP, and the engine's
completing step with and without traffic before it. -/

namespace Sys2Proof.Machine

/-! ### The accept (40_command_lifecycle.md R61) -/

theorem exec_nop_eq_afterNop (s : State) (hp : s.phase = .idle) : exec .nop s = .next (afterNop s (encode .nop)) :=
  exec_nop_of_idle s hp

/-- An accept whose checks pass starts the command. -/
theorem exec_eq_acceptedAs (s : State) (i : Instr) (hi : i ≠ .nop) (hp : s.phase = .idle) (hc : checksOf i s = .none) :
    exec i s = .next (acceptedAs s (encode i) i) := by
  rw [exec_of_idle s i hi hp, hc, accept_of_pass]
  rfl

/-- An accept whose checks fail ends with their code (40_command_lifecycle.md R63). -/
theorem exec_eq_failedAs (s : State) (i : Instr) (hi : i ≠ .nop) (hp : s.phase = .idle) (hc : checksOf i s ≠ .none) :
    exec i s = .next (failedAs s (encode i) (checksOf i s)) := by
  rw [exec_of_idle s i hi hp, accept_of_fail s i _ hc]
  rfl

/-- Settles O6: a busy refusal or an accept, by what the word decodes to; a legal word is the encoding of its command. -/
theorem commandWriteIsAccept : Obligations.CommandWriteIsAccept := by
  unfold Obligations.CommandWriteIsAccept
  intro s w
  refine ⟨handle_cmd s w, presentCommand_of_running s w, fun hp => ⟨fun e => presentCommand_of_illegal s w e hp, ?_, ?_, ?_⟩⟩
  · intro hd
    obtain rfl := (decode_eq_ok_iff w .nop).1 hd
    exact (presentCommand_of_decode s _ .nop hp hd).trans (exec_nop_eq_afterNop s hp)
  · intro i hi hd hc
    obtain rfl := (decode_eq_ok_iff w i).1 hd
    exact (presentCommand_of_decode s _ i hp hd).trans (exec_eq_acceptedAs s i hi hp hc)
  · intro i hi hd hc
    obtain rfl := (decode_eq_ok_iff w i).1 hd
    exact (presentCommand_of_decode s _ i hp hd).trans (exec_eq_failedAs s i hi hp hc)

/-! ### The checks (40_command_lifecycle.md R62) -/

/-- Check 1: a word is illegal for its RSVD or for its OPCODE (30_encoding.md R56). -/
theorem exists_decode_eq_error_iff (w : Word) :
    (∃ e, decode w = .error e) ↔ rsvdField w ≠ 0#24 ∨ 0x07 ≤ (opcodeField w).toNat := by
  constructor
  · rintro ⟨e, he⟩
    cases e with
    | rsvdNonZero => exact .inl ((decode_eq_rsvdNonZero_iff w).1 he)
    | reservedOpcode => exact .inr ((decode_eq_reservedOpcode_iff w).1 he).2
    | truncated => exact absurd he (decode_ne_truncated w)
  · intro h
    by_cases hr : rsvdField w = 0#24
    · exact ⟨_, (decode_eq_reservedOpcode_iff w).2 ⟨hr, h.resolve_left (not_not_intro hr)⟩⟩
    · exact ⟨_, (decode_eq_rsvdNonZero_iff w).2 hr⟩

theorem tooWide_nil (s : State) : s.tooWide [] = false := rfl

/-- Check 3 over a list of registers is the disjunction of the bounds, register by register. -/
theorem tooWide_cons_iff (s : State) (x : OpReg) (regs : List OpReg) :
    s.tooWide (x :: regs) = true ↔ 2 ^ (32 * s.len.toNat) ≤ s.op x ∨ s.tooWide regs = true := by
  simp only [tooWide_iff, List.mem_cons, exists_eq_or_imp]

/-- Settles O7: each command's list of checks is the row of the table, and each check says what its column says. -/
theorem checksInTableOrder : Obligations.ChecksInTableOrder := by
  unfold Obligations.ChecksInTableOrder
  refine ⟨exists_decode_eq_error_iff, fun s => ⟨rfl, ?_, ?_, ?_, ?_, ?_, ?_⟩⟩
  all_goals
    simp only [checksOf, montmulChecks, rsqChecks, modexpChecks, mrroundChecks, mrtestChecks, modinvChecks,
      firstFailure_cons, firstFailure_nil, lenIllegal_iff, tooWide_cons_iff, tooWide_nil, Bool.false_eq_true, or_false,
      modulusZero_iff, modulusEven_iff, outOfRange_iff, roundsIllegal_iff, State.op_A, State.op_B, State.op_E, State.op_N]

/-! ### NOP (40_command_lifecycle.md R67) -/

/-- Settles O8: the accept of NOP, its flags, and the refusal of a CMD write while busy. -/
theorem nopCompletesInAccept : Obligations.NopCompletesInAccept := by
  unfold Obligations.NopCompletesInAccept
  refine ⟨decode_encode .nop, fun s => ⟨exec_nop_eq_afterNop s, fun hirqen => ?_, presentCommand_of_running s _⟩, by decide⟩
  simp [State.irq, afterNop, hirqen]

/-! ### The completing step (40_command_lifecycle.md R64) -/

/-- An engine step of NOP, or of a command that draws nothing, completes the command (log 9, log 16). -/
theorem exec_finishes (s : State) (cur : Instr) (hp : s.phase = .running cur) (h : drawsNothing s cur) :
    ∃ t, exec cur s = .next t ∧ t.phase = .idle ∧ t.done = true := by
  by_cases hi : cur = .nop
  · subst hi
    exact ⟨s.finish false, by rw [exec, execNop, hp], rfl, rfl⟩
  · obtain ⟨v, f, hc⟩ := exists_completes s cur hi h
    exact ⟨s.complete v f, hc s {} hp, rfl, rfl⟩

/-- Settles O37: with an empty schedule the engine moves, and its step completes the command. -/
theorem engineCompletesUndrawnCommand : Obligations.EngineCompletesUndrawnCommand := by
  unfold Obligations.EngineCompletesUndrawnCommand
  intro s cur hp hsched hdraw
  obtain ⟨t, ht, hidle, hdone⟩ := exec_finishes s cur hp hdraw
  have hstep : step s = .next t := by rw [step_of_nil s hsched, engineStep_of_running s cur hp, ht]
  exact ⟨t, hstep, hidle, hdone, t.busy_of_idle hidle⟩

/-! ### Traffic before the completing step (20_memory.md R48) -/

/-- An internal step, an entropy offer, or a host access other than a soft reset. -/
def sparesCommand (p : Params) (ev : Event) : Prop :=
  ev = .engineInternal ∨ (∃ v, ev = .entropy v) ∨ ∃ acc, ev = .host acc ∧ ¬ acc.isSoftReset p

/-- Every host access answers a next state (20_memory.md R40). -/
theorem handle_host_next (s : State) (acc : Access) : ∃ t, s.handle (.host acc) = .next t := by
  obtain hout | ⟨off, haddr, hoff⟩ := outside_or_offset s.params acc.addr
  · exact ⟨_, outsideWindowChangesNothing s acc hout⟩
  · rw [handle_host_at s acc off haddr hoff]
    by_cases hbus : busErrorCase s acc off
    · exact ⟨_, accessAt_of_busErrorCase s acc off hbus⟩
    · obtain ⟨t, ht, -⟩ := accessAt_of_not_busErrorCase s acc off hbus
      exact ⟨t, ht⟩

/-- Such an event leaves the running command and what it reads. -/
theorem handle_sparesCommand (s : State) (ev : Event) (hp : s.phase ≠ .idle) (hev : sparesCommand s.params ev) :
    ∃ u, s.handle ev = .next u ∧ s.SameInputs u ∧ u.phase = s.phase := by
  obtain rfl | ⟨v, rfl⟩ | ⟨acc, rfl, hsoft⟩ := hev
  · refine ⟨_, rfl, ?_⟩
    obtain he | he := internalStep_cases s <;> rw [he] <;> exact ⟨{}, rfl⟩
  · refine ⟨_, rfl, ?_⟩
    obtain ⟨-, -, -, he⟩ | he := offerEntropy_cases s v <;> rw [he] <;> exact ⟨{}, rfl⟩
  · obtain ⟨u, hu⟩ := handle_host_next s acc
    obtain ⟨x, k, i, d, e, c, rfl⟩ := handle_host_of_running s u acc hp hsoft hu
    exact ⟨_, hu, {}, rfl⟩

theorem runEvents_sparesCommand (s : State) (events : List Event) (hp : s.phase ≠ .idle)
    (hev : ∀ ev ∈ events, sparesCommand s.params ev) :
    ∃ u, s.runEvents events = .next u ∧ s.SameInputs u ∧ u.phase = s.phase := by
  induction events generalizing s with
  | nil => exact ⟨s, rfl, {}, rfl⟩
  | cons ev events ih =>
    rw [List.forall_mem_cons] at hev
    obtain ⟨t, ht, hin, hphase⟩ := handle_sparesCommand s ev hp hev.1
    obtain ⟨u, hu, hin', hphase'⟩ := ih t (hphase ▸ hp) (hin.params ▸ hev.2)
    exact ⟨u, (runEvents_cons s t ev events ht).trans hu, hin.trans hin', hphase'.trans hphase⟩

/-- Settles O36: the completing step reads only the inputs of the command, and the traffic leaves them. -/
theorem resultIndependentOfTraffic : Obligations.ResultIndependentOfTraffic := by
  unfold Obligations.ResultIndependentOfTraffic
  intro s cur events hp hi hdraw hev
  obtain ⟨v, f, hc⟩ := exists_completes s cur hi hdraw
  obtain ⟨u, hrun, hin, hphase⟩ := runEvents_sparesCommand s events (by simp [hp]) hev
  exact ⟨s.complete v f, u, u.complete v f, hc s {} hp, hrun, hc u hin (hphase.trans hp), rfl, rfl, rfl, rfl⟩

end Sys2Proof.Machine

/-! SUPPORT. Proofs about the Montgomery multiplier (41_montgomery.md): the accept and completion of MONTMUL and RSQ, the
identities of the Montgomery product, and its word-serial computation. -/

namespace Sys2Proof.Machine

/-! ### MONTMUL and RSQ (41_montgomery.md R69, R70) -/

/-- The accept of a command in the states that the statements name (40_command_lifecycle.md R61, R63). -/
theorem accept_eq_acceptedAs (s : State) (i : Instr) : s.accept i .none = acceptedAs s (encode i) i := rfl

theorem accept_eq_failedAs (s : State) (i : Instr) (c : ErrCode) (h : c ≠ .none) :
    s.accept i c = failedAs s (encode i) c := accept_of_fail s i c h

theorem accept_ite (s : State) (i : Instr) (p : Prop) [Decidable p] (c d : ErrCode) :
    s.accept i (if p then c else d) = if p then s.accept i c else s.accept i d := apply_ite (s.accept i) p c d

/-- Settles O9: the checks are the row of the table, and the factor that MONTMUL multiplies by is the inverse of the radix, which
an odd modulus has. -/
theorem montmulAcceptAndResult : Obligations.MontmulAcceptAndResult := by
  unfold Obligations.MontmulAcceptAndResult
  refine ⟨decode_encode .montmul, fun s => ⟨fun hp => ?_, fun hp hodd => ?_⟩⟩
  · obtain ⟨-, hchecks, -⟩ := checksInTableOrder.2 s
    rw [exec_of_idle s .montmul (by decide) hp, hchecks]
    simp only [accept_ite, accept_eq_acceptedAs, accept_eq_failedAs, ne_eq, reduceCtorEq, not_false_eq_true]
    rfl
  · have hn : 0 < s.n := by omega
    exact ⟨inverseMod (radix s.len.toNat) s.n, inverseMod_lt _ _ hn,
      mul_inverseMod _ _ hn (gcd_radix_of_odd _ _ hodd), exec_montmul_of_running s _ hp⟩

/-- Settles O10: the checks are the row of the table, which names neither A nor B, and the result is the conversion constant. -/
theorem rsqAcceptAndResult : Obligations.RsqAcceptAndResult := by
  unfold Obligations.RsqAcceptAndResult
  refine ⟨decode_encode .rsq, fun s => ⟨fun hp => ?_, exec_rsq_of_running s _⟩⟩
  obtain ⟨-, -, hchecks, -⟩ := checksInTableOrder.2 s
  rw [exec_of_idle s .rsq (by decide) hp, hchecks]
  simp only [accept_ite, accept_eq_acceptedAs, accept_eq_failedAs, ne_eq, reduceCtorEq, not_false_eq_true]
  rfl

/-! ### The identities of the Montgomery product (41_montgomery.md R71) -/

theorem coprime_radix_of_odd (n len : Nat) (hn : n % 2 = 1) : Nat.gcd n (radix len) = 1 := by
  rw [Nat.gcd_comm, ← gcd_mod_left]
  exact gcd_radix_of_odd n len hn

/-- The Montgomery product is the only value below `n` that the radix takes to the plain product modulo an odd `n`. -/
theorem montProduct_eq_of_mul_radix {a b n len v : Nat} (hn : n % 2 = 1) (hv : v < n)
    (h : v * radix len ≡ a * b [MOD n]) : montProduct a b n len = v := by
  have hmod : montProduct a b n len ≡ v [MOD n] :=
    Nat.ModEq.cancel_right_of_coprime (coprime_radix_of_odd n len hn)
      (Nat.ModEq.trans (montProduct_mul_radix a b n len hn) h.symm)
  exact hmod.eq_of_lt_of_lt (montProduct_lt a b n len (by omega)) hv

/-- Multiplying by 1 leaves Montgomery form. -/
theorem montProduct_one_of_form {x n len : Nat} (hn : n % 2 = 1) (hx : x < n) :
    montProduct (x * radix len % n) 1 n len = x := by
  refine montProduct_eq_of_mul_radix hn hx ?_
  rw [Nat.mul_one]
  exact (Nat.mod_modEq _ n).symm

/-- The product of two values in Montgomery form is their product in Montgomery form. -/
theorem montProduct_of_forms (x y : Nat) {n len : Nat} (hn : n % 2 = 1) :
    montProduct (x * radix len % n) (y * radix len % n) n len = x * y * radix len % n := by
  refine montProduct_eq_of_mul_radix hn (Nat.mod_lt _ (by omega)) ?_
  calc x * y * radix len % n * radix len
      ≡ x * y * radix len * radix len [MOD n] := (Nat.mod_modEq _ n).mul_right _
    _ = x * radix len * (y * radix len) := by ring
    _ ≡ x * radix len % n * (y * radix len % n) [MOD n] := ((Nat.mod_modEq _ n).mul (Nat.mod_modEq _ n)).symm

/-- The conversion constant cancels the factor RM^-1 of a Montgomery product. -/
theorem montProduct_montProduct_montConstant (x y : Nat) {n len : Nat} (hn : n % 2 = 1) :
    montProduct (montProduct x y n len) (montConstant n len) n len = x * y % n :=
  (montProduct_montConstant _ n len hn).trans (montProduct_mul_radix x y n len hn)

/-- Settles O44, one lemma for each identity. -/
theorem montgomeryIdentities : Obligations.MontgomeryIdentities := by
  unfold Obligations.MontgomeryIdentities
  intro n len x y hn hx _
  exact ⟨montProduct_montConstant x n len hn, fun _ => montProduct_one_of_form hn hx, montProduct_of_forms x y hn,
    montProduct_montProduct_montConstant x y hn⟩

/-! ### Word-serial Montgomery reduction (41_montgomery.md R72) -/

/-- The constant of the loop is the negated inverse of an odd `n` modulo one word. -/
theorem word_dvd_mul_ciosConstant_add_one (n : Nat) (hn : n % 2 = 1) : 2 ^ 32 ∣ n * ciosConstant n + 1 := by
  have hinv : n * inverseMod n (2 ^ 32) ≡ 1 [MOD 2 ^ 32] := by
    refine mul_inverseMod n (2 ^ 32) (by decide) ?_
    rw [gcd_mod_left]
    exact Nat.Coprime.pow_right 32 (Nat.coprime_two_right.2 (Nat.odd_iff.2 hn))
  have hle : inverseMod n (2 ^ 32) ≤ 2 ^ 32 := (inverseMod_lt n (2 ^ 32) (by decide)).le
  refine Nat.modEq_zero_iff_dvd.1 ?_
  calc n * ciosConstant n + 1
      ≡ n * (2 ^ 32 - inverseMod n (2 ^ 32)) + n * inverseMod n (2 ^ 32) [MOD 2 ^ 32] :=
        ((Nat.mod_modEq _ _).mul_left n).add hinv.symm
    _ = n * 2 ^ 32 := by rw [← Nat.mul_add, Nat.sub_add_cancel hle]
    _ ≡ 0 [MOD 2 ^ 32] := Nat.modEq_zero_iff_dvd.2 (Nat.dvd_mul_left _ _)

/-- The multiple of `n` that the loop adds clears the lowest word: its division is exact. -/
theorem dvd_add_reduction (w u n n0 : Nat) (h : w ∣ n * n0 + 1) : w ∣ u + u % w * n0 % w * n := by
  refine Nat.modEq_zero_iff_dvd.1 ?_
  have hm : u % w * n0 % w ≡ u * n0 [MOD w] := (Nat.mod_modEq _ w).trans ((Nat.mod_modEq u w).mul_right n0)
  calc u + u % w * n0 % w * n
      ≡ u + u * n0 * n [MOD w] := (hm.mul_right n).add_left u
    _ = u * (n * n0 + 1) := by ring
    _ ≡ 0 [MOD w] := Nat.modEq_zero_iff_dvd.2 (h.mul_left u)

/-- One pass of the loop: add the word `x` times `b`, add the multiple of `n` that clears the lowest word, and drop that word. -/
def ciosStep (b n n0 x t : Nat) : Nat := (t + x * b + (t + x * b) % 2 ^ 32 * n0 % 2 ^ 32 * n) / 2 ^ 32

theorem ciosLoop_succ (a b n n0 k i t : Nat) :
    ciosLoop a b n n0 (k + 1) i t = ciosLoop a b n n0 k (i + 1) (ciosStep b n n0 (a / 2 ^ (32 * i) % 2 ^ 32) t) := rfl

/-- A pass divides by one word modulo `n`. -/
theorem ciosStep_mul_word {n n0 : Nat} (b x t : Nat) (h : 2 ^ 32 ∣ n * n0 + 1) :
    ciosStep b n n0 x t * 2 ^ 32 ≡ t + x * b [MOD n] := by
  rw [ciosStep, Nat.div_mul_cancel (dvd_add_reduction _ _ n n0 h)]
  simp [Nat.ModEq]

/-- A pass keeps the bound `T < n + b`. -/
theorem ciosStep_lt {b n x t : Nat} (n0 : Nat) (hx : x < 2 ^ 32) (ht : t < n + b) : ciosStep b n n0 x t < n + b := by
  have hm : (t + x * b) % 2 ^ 32 * n0 % 2 ^ 32 < 2 ^ 32 := Nat.mod_lt _ (by decide)
  rw [ciosStep, Nat.div_lt_iff_lt_mul (by decide)]
  generalize (t + x * b) % 2 ^ 32 * n0 % 2 ^ 32 = m at hm
  have hxb : x * b ≤ (2 ^ 32 - 1) * b := Nat.mul_le_mul_right b (by omega)
  have hmn : m * n ≤ (2 ^ 32 - 1) * n := Nat.mul_le_mul_right n (by omega)
  omega

/-- What `T` is before pass `i`: below `n + b`, and the product of the words of `a` used so far with `b`, divided by the radix of
`i` words modulo `n`. -/
structure CiosInvariant (a b n i t : Nat) : Prop where
  lt : t < n + b
  modEq : t * radix i ≡ a % radix i * b [MOD n]

theorem radix_succ (i : Nat) : radix (i + 1) = 2 ^ 32 * radix i := by rw [radix, Nat.mul_succ, pow_add, Nat.mul_comm, radix]

/-- Word `i` of `a` on top of the words below it. -/
theorem mod_radix_succ (a i : Nat) : a % radix (i + 1) = a % radix i + radix i * (a / 2 ^ (32 * i) % 2 ^ 32) := by
  rw [radix_succ, Nat.mul_comm, Nat.mod_mul, radix]

theorem CiosInvariant.step {a b n n0 i t : Nat} (h : CiosInvariant a b n i t) (h0 : 2 ^ 32 ∣ n * n0 + 1) :
    CiosInvariant a b n (i + 1) (ciosStep b n n0 (a / 2 ^ (32 * i) % 2 ^ 32) t) where
  lt := ciosStep_lt n0 (Nat.mod_lt _ (by decide)) h.lt
  modEq := by
    rw [mod_radix_succ, radix_succ, ← Nat.mul_assoc]
    generalize a / 2 ^ (32 * i) % 2 ^ 32 = x
    calc ciosStep b n n0 x t * 2 ^ 32 * radix i
        ≡ (t + x * b) * radix i [MOD n] := (ciosStep_mul_word b x t h0).mul_right _
      _ = t * radix i + radix i * x * b := by ring
      _ ≡ a % radix i * b + radix i * x * b [MOD n] := h.modEq.add_right _
      _ = (a % radix i + radix i * x) * b := (Nat.add_mul _ _ _).symm

theorem CiosInvariant.loop {a b n n0 : Nat} (h0 : 2 ^ 32 ∣ n * n0 + 1) :
    ∀ k i t : Nat, CiosInvariant a b n i t → CiosInvariant a b n (i + k) (ciosLoop a b n n0 k i t)
  | 0, _, _, h => h
  | k + 1, i, t, h => by
    rw [ciosLoop_succ, Nat.add_comm k 1, ← Nat.add_assoc]
    exact CiosInvariant.loop h0 k (i + 1) _ (h.step h0)

theorem CiosInvariant.initial (a b : Nat) {n : Nat} (hn : 0 < n) : CiosInvariant a b n 0 0 where
  lt := by omega
  modEq := by simp [radix, Nat.mod_one, Nat.ModEq]

/-- Settles O45: the loop's invariant, and the final subtraction, which takes `T < 2n` below `n`. -/
theorem ciosRefinesMontgomeryProduct : Obligations.CiosRefinesMontgomeryProduct := by
  unfold Obligations.CiosRefinesMontgomeryProduct
  intro a b n len hn hfits ha hb
  obtain ⟨hlt, hmod⟩ := CiosInvariant.loop (word_dvd_mul_ciosConstant_add_one n hn) len 0 0 (.initial a b (by omega))
  have haRadix : a < radix len := ha.trans hfits
  rw [Nat.zero_add, Nat.mod_eq_of_lt haRadix] at hmod
  rw [cios]
  split
  case isTrue hle =>
    have hsub : ciosLoop a b n (ciosConstant n) len 0 0 - n ≡ ciosLoop a b n (ciosConstant n) len 0 0 [MOD n] :=
      (Nat.modEq_iff_dvd' (Nat.sub_le _ _)).2 (by rw [Nat.sub_sub_self hle])
    exact (montProduct_eq_of_mul_radix hn (by omega) ((hsub.mul_right _).trans hmod)).symm
  case isFalse hnle => exact (montProduct_eq_of_mul_radix hn (by omega) hmod).symm

end Sys2Proof.Machine

/-! SUPPORT. Proofs about MODEXP (42_modexp.md): its accept and completion, its value through Montgomery form, and the RSA round
trip. -/

namespace Sys2Proof.Machine

/-! ### MODEXP (42_modexp.md R73) -/

/-- The completing step of MODEXP answers the spec's power, whatever A is. -/
theorem exec_modexp_eq_completedWith (s : State) (hp : s.phase = .running .modexp) (hn : 0 < s.n) :
    exec .modexp s = .next (completedWith s ((s.a % s.n) ^ s.e % s.n) true) := by
  rw [exec_modexp_of_running s _ hp, powMod_eq _ _ _ hn]
  rfl

/-- Settles O11: the checks are the row of the table, where no check compares A with N, and the result is the modular power. -/
theorem modexpAcceptAndResult : Obligations.ModexpAcceptAndResult := by
  unfold Obligations.ModexpAcceptAndResult
  refine ⟨decode_encode .modexp, fun s => ⟨fun hp => ?_, exec_modexp_eq_completedWith s⟩⟩
  obtain ⟨-, -, -, hchecks, -⟩ := checksInTableOrder.2 s
  rw [exec_of_idle s .modexp (by decide) hp, hchecks]
  simp only [accept_ite, accept_eq_acceptedAs, accept_eq_failedAs, ne_eq, reduceCtorEq, not_false_eq_true]
  rfl

/-! ### Binary exponentiation in Montgomery form (42_modexp.md R74) -/

/-- The Montgomery form of `y` modulo `n`. -/
def montForm (y n len : Nat) : Nat := y * radix len % n

/-- The Montgomery form depends on the residue only. -/
theorem montForm_mod (y n len : Nat) : montForm (y % n) n len = montForm y n len :=
  (Nat.mod_modEq y n).mul_right (radix len)

theorem montProduct_montForm (x y : Nat) {n len : Nat} (hn : n % 2 = 1) :
    montProduct (montForm x n len) (montForm y n len) n len = montForm (x * y % n) n len :=
  (montProduct_of_forms x y hn).trans (montForm_mod (x * y) n len).symm

/-- The scan in Montgomery form is the Montgomery form of the plain scan, bit by bit. -/
theorem montPowBits_montForm (x e : Nat) {n len : Nat} (hn : n % 2 = 1) (k y : Nat) :
    montPowBits (montForm x n len) e n len k (montForm y n len) = montForm (powBits x e n k y) n len := by
  induction k generalizing y with
  | zero => rfl
  | succ k ih =>
    rw [montPowBits, powBits, montProduct_montForm y y hn, montProduct_montForm _ x hn]
    split <;> exact ih _

/-- The ladder computes the power that MODEXP's meaning uses. -/
theorem montPow_eq_powMod (a e len : Nat) {n : Nat} (hn : n % 2 = 1) : montPow a e n len = powMod a e n := by
  have hpos : 0 < n := by omega
  have hbase : montProduct (a % n) (montConstant n len) n len = montForm (a % n) n len :=
    montProduct_montConstant (a % n) n len hn
  have hone : radix len % n = montForm (1 % n) n len := by rw [montForm_mod, montForm, Nat.one_mul]
  rw [montPow, hbase, hone, montPowBits_montForm _ e hn]
  exact montProduct_one_of_form hn (powMod_lt a e n hpos)

/-- Settles O46: the ladder is the Montgomery form of the plain scan, and the last product leaves the form. -/
theorem montgomeryLadderRefinesModexp : Obligations.MontgomeryLadderRefinesModexp := by
  unfold Obligations.MontgomeryLadderRefinesModexp
  intro a e n len hn
  rw [montPow_eq_powMod a e len hn, powMod_eq a e n (by omega)]

/-! ### The RSA round trip (42_modexp.md R75) -/

/-- An exponent that is 1 modulo `p - 1` leaves every residue modulo the prime `p`, 0 included. -/
theorem pow_modEq_self_of_prime {p k : Nat} (hp : p.Prime) (hk : 0 < k) (h : p - 1 ∣ k - 1) (m : Nat) : m ^ k ≡ m [MOD p] := by
  have hpow := Int.ModEq.pow_eq_pow hp h hk Nat.one_pos m
  rw [pow_one] at hpow
  exact_mod_cast hpow

/-- For distinct primes, an exponent that is 1 modulo `(p - 1)(q - 1)` leaves every residue modulo `p * q`, also one that shares
a factor with it. -/
theorem pow_modEq_self_of_primes {p q k : Nat} (hp : p.Prime) (hq : q.Prime) (hpq : p ≠ q)
    (hk : k % ((p - 1) * (q - 1)) = 1) (m : Nat) : m ^ k ≡ m [MOD p * q] := by
  have hpos : 0 < k := Nat.pos_of_ne_zero fun h0 => by simp [h0] at hk
  have hdvd : (p - 1) * (q - 1) ∣ k - 1 := by
    have h := Nat.dvd_sub_mod (n := (p - 1) * (q - 1)) k
    rwa [hk] at h
  refine (Nat.modEq_and_modEq_iff_modEq_mul ((Nat.coprime_primes hp hq).2 hpq)).1 ⟨?_, ?_⟩
  · exact pow_modEq_self_of_prime hp hpos ((Nat.dvd_mul_right _ _).trans hdvd) m
  · exact pow_modEq_self_of_prime hq hpos ((Nat.dvd_mul_left _ _).trans hdvd) m

/-- Powers of reduced powers are powers with the product of the exponents. -/
theorem powMod_powMod (m e d : Nat) {n : Nat} (hn : 0 < n) : powMod (powMod m e n) d n = m ^ (e * d) % n := by
  rw [powMod_eq _ d n hn, powMod_eq m e n hn, Nat.mod_mod, ← Nat.pow_mod, ← pow_mul, ← Nat.pow_mod]

/-- What a completed MODEXP leaves in R. -/
theorem exec_modexp_r {s t : State} (hp : s.phase = .running .modexp) (h : exec .modexp s = .next t) :
    t.r = powMod s.a s.e s.n := by
  rw [exec_modexp_of_running s _ hp] at h
  injection h with h
  subst h
  rfl

/-- Settles O47: the two completions compute `m^(e*d)` modulo `p * q`, which is `m` by Fermat modulo each prime. -/
theorem rsaRoundTrip : Obligations.RsaRoundTrip := by
  unfold Obligations.RsaRoundTrip
  intro p q e d m s t u v hp hq hpq hed hm hsp hsa hse hsn hst hup hua hue hun huv
  have hr : v.r = powMod (powMod m e (p * q)) d (p * q) := by
    rw [exec_modexp_r hup huv, hua, hue, hun, exec_modexp_r hsp hst, hsa, hse, hsn]
  calc v.r = m ^ (e * d) % (p * q) := hr.trans (powMod_powMod m e d (Nat.mul_pos hp.pos hq.pos))
    _ = m % (p * q) := pow_modEq_self_of_primes hp hq hpq hed m
    _ = m := Nat.mod_eq_of_lt hm

end Sys2Proof.Machine

/-! SUPPORT. Proofs about the primality commands (43_primality.md): the Miller-Rabin round and what it says of a prime, MRROUND, and
MRTEST with and without draws. -/

namespace Sys2Proof.Machine

/-! ### The round MR(n, a) (43_primality.md R76) -/

/-- Enough halvings leave the odd part and count the twos. -/
theorem splitTwos_two_pow_mul (k fuel s : Nat) {d : Nat} (hd : d % 2 = 1) (hk : k < fuel) :
    splitTwos fuel (2 ^ k * d) s = (d, s + k) := by
  induction k generalizing fuel s with
  | zero =>
    obtain ⟨fuel, rfl⟩ := Nat.exists_eq_add_of_lt hk
    rw [pow_zero, Nat.one_mul, splitTwos, if_neg (by omega), Nat.add_zero]
  | succ k ih =>
    obtain ⟨fuel, rfl⟩ : ∃ m, fuel = m + 1 := ⟨fuel - 1, by omega⟩
    have hdouble : 2 ^ (k + 1) * d = 2 * (2 ^ k * d) := by ring
    rw [splitTwos, hdouble, if_pos (Nat.mul_mod_right 2 _), Nat.mul_div_cancel_left _ (by decide), ih fuel _ (by omega),
      Nat.add_assoc, Nat.add_comm 1 k]

/-- The bits of `n` are halvings enough for `n - 1`. -/
theorem splitTwos_pred {n k d : Nat} (hn : 0 < n) (hk : n - 1 = 2 ^ k * d) (hd : d % 2 = 1) :
    splitTwos (bitLen n) (n - 1) 0 = (d, k) := by
  have hlt : k < bitLen n := by
    refine (Nat.pow_lt_pow_iff_right (by decide : 1 < 2)).1 ?_
    calc 2 ^ k ≤ 2 ^ k * d := Nat.le_mul_of_pos_right _ (by omega)
      _ < n := by omega
      _ < 2 ^ bitLen n := lt_two_pow_bitLen n
  rw [hk, splitTwos_two_pow_mul k _ 0 hd hlt, Nat.zero_add]

/-- The verdict of a trivial candidate is that of every round. -/
theorem millerRabin_of_trivialVerdict {n : Nat} {f : Bool} (a : Nat) (h : trivialVerdict n = some f) : millerRabin n a = f := by
  unfold trivialVerdict at h
  unfold millerRabin
  split_ifs at h ⊢ <;> simp_all

/-- The standard Miller-Rabin condition for `n - 1 = 2^k * d` (93_implementation_defined.md G4). -/
def strongCondition (n a k d : Nat) : Prop := a ^ d % n = 1 ∨ ∃ j, j < k ∧ a ^ (d * 2 ^ j) % n = n - 1

/-- The power that starts a round, and the squares after it, are the powers of the condition. -/
theorem strongCondition_iff (n a : Nat) {k d : Nat} (hk : 0 < k) :
    strongCondition n a k d ↔ (a ^ d % n = 1 ∨ a ^ d % n = n - 1) ∨ squaresReachMinusOne n (k - 1) (a ^ d % n) = true := by
  have hpow : ∀ j, (a ^ d % n) ^ 2 ^ j % n = a ^ (d * 2 ^ j) % n := fun j => by rw [← Nat.pow_mod, ← pow_mul]
  simp only [squaresReachMinusOne_iff, hpow, strongCondition, or_assoc]
  refine or_congr_right ⟨?_, ?_⟩
  · rintro ⟨_ | j, hj, h⟩
    · exact .inl (by simpa using h)
    · exact .inr ⟨j + 1, by omega, by omega, h⟩
  · rintro (h | ⟨j, -, hj, h⟩)
    · exact ⟨0, hk, by simpa using h⟩
    · exact ⟨j, by omega, h⟩

/-- A round of a candidate that is not trivial: the base is degenerate, or the condition holds. -/
theorem millerRabin_iff_of_candidate {n k d : Nat} (a : Nat) (hn : trivialVerdict n = none) (hk : n - 1 = 2 ^ k * d)
    (hd : d % 2 = 1) :
    millerRabin n a = true ↔ a % n = 0 ∨ a % n = 1 ∨ a % n = n - 1 ∨ strongCondition n a k d := by
  obtain ⟨hlarge, hodd⟩ := (trivialVerdict_eq_none_iff n).1 hn
  have hkpos : 0 < k := Nat.pos_of_ne_zero fun h0 => by rw [h0] at hk; omega
  have hpower : powMod a d n = a ^ d % n := by rw [powMod_eq a d n (by omega), ← Nat.pow_mod]
  rw [strongCondition_iff n a hkpos, millerRabin, if_neg (by omega), if_neg (by omega), if_neg (by omega),
    splitTwos_pred (by omega) hk hd]
  dsimp only
  rw [hpower]
  simp only [Bool.if_true_left, Bool.or_eq_true, decide_eq_true_iff, or_assoc]

/-- There is only one decomposition, so it does not matter which one the condition is said for. -/
theorem exists_strongCondition_iff {n k d : Nat} (a : Nat) (hn : 0 < n) (hk : n - 1 = 2 ^ k * d) (hd : d % 2 = 1) :
    (∃ k d, n - 1 = 2 ^ k * d ∧ d % 2 = 1 ∧ strongCondition n a k d) ↔ strongCondition n a k d := by
  constructor
  · rintro ⟨k', d', hk', hd', h⟩
    have heq : (d', k') = (d, k) := (splitTwos_pred hn hk' hd').symm.trans (splitTwos_pred hn hk hd)
    obtain ⟨rfl, rfl⟩ := Prod.mk.inj heq
    exact h
  · exact fun h => ⟨k, d, hk, hd, h⟩

/-- Settles O12: a trivial candidate has the verdict of R79, and any other the condition for the only decomposition there is. -/
theorem roundIsStrongProbablePrimeTest : Obligations.RoundIsStrongProbablePrimeTest := by
  unfold Obligations.RoundIsStrongProbablePrimeTest
  intro n a
  cases hn : trivialVerdict n with
  | some f =>
    obtain ⟨htrivial, hf⟩ := (trivialVerdict_eq_some_iff n f).1 hn
    rw [millerRabin_of_trivialVerdict a hn, hf]
    omega
  | none =>
    obtain ⟨hlarge, hodd⟩ := (trivialVerdict_eq_none_iff n).1 hn
    obtain ⟨k, d, hd, hk⟩ := Nat.exists_eq_two_pow_mul_odd (n := n - 1) (by omega)
    rw [Nat.odd_iff] at hd
    rw [millerRabin_iff_of_candidate a hn hk hd, ← exists_strongCondition_iff a (by omega) hk hd,
      or_iff_right (by omega : n ≠ 2), or_iff_right (by omega : n ≠ 3), and_iff_right (by omega : 5 ≤ n), and_iff_right hodd]
    rfl

/-! ### A round of a prime (43_primality.md R80) -/

/-- Squaring down from 1 in a domain: the value is 1, or one of its squares is -1. -/
theorem eq_one_or_exists_pow_eq_neg_one {R : Type*} [Ring R] [NoZeroDivisors R] {x : R} {k : Nat} (h : x ^ 2 ^ k = 1) :
    x = 1 ∨ ∃ j, j < k ∧ x ^ 2 ^ j = -1 := by
  induction k with
  | zero => exact .inl (by simpa using h)
  | succ k ih =>
    rw [pow_succ, pow_mul, sq_eq_one_iff] at h
    obtain h | h := h
    · obtain hone | ⟨j, hj, hneg⟩ := ih h
      · exact .inl hone
      · exact .inr ⟨j, by omega, hneg⟩
    · exact .inr ⟨k, by omega, h⟩

/-- By Fermat, and since 1 has no other square roots modulo a prime. -/
theorem strongCondition_of_prime {n a k d : Nat} (hp : n.Prime) (ha : a % n ≠ 0) (hk : n - 1 = 2 ^ k * d) :
    strongCondition n a k d := by
  have : Fact n.Prime := ⟨hp⟩
  have hne : (a : ZMod n) ≠ 0 := by rwa [Ne, ZMod.natCast_eq_zero_iff, Nat.dvd_iff_mod_eq_zero]
  have hfermat : ((a : ZMod n) ^ d) ^ 2 ^ k = 1 := by
    rw [← pow_mul, Nat.mul_comm, ← hk, ZMod.pow_card_sub_one_eq_one hne]
  refine (eq_one_or_exists_pow_eq_neg_one hfermat).imp (fun h => ?_) fun ⟨j, hj, h⟩ => ⟨j, hj, ?_⟩
  · have hmod : a ^ d % n = 1 % n := (ZMod.natCast_eq_natCast_iff' _ _ n).1 (by exact_mod_cast h)
    exact hmod.trans (Nat.mod_eq_of_lt hp.one_lt)
  · have hmod : a ^ (d * 2 ^ j) % n = (n - 1) % n := by
      refine (ZMod.natCast_eq_natCast_iff' _ _ n).1 ?_
      rw [Nat.cast_pow, pow_mul, h, Nat.cast_pred hp.pos, ZMod.natCast_self, zero_sub]
    exact hmod.trans (Nat.mod_eq_of_lt (Nat.sub_lt hp.pos Nat.one_pos))

theorem millerRabin_of_prime {n : Nat} (a : Nat) (hp : n.Prime) : millerRabin n a = true := by
  cases hn : trivialVerdict n with
  | some f =>
    obtain ⟨htrivial, hf⟩ := (trivialVerdict_eq_some_iff n f).1 hn
    rw [millerRabin_of_trivialVerdict a hn, hf]
    have htwo := hp.two_le
    obtain h2 | hodd := hp.eq_two_or_odd <;> omega
  | none =>
    obtain ⟨hlarge, -⟩ := (trivialVerdict_eq_none_iff n).1 hn
    obtain ⟨k, d, hd, hk⟩ := Nat.exists_eq_two_pow_mul_odd (n := n - 1) (by omega)
    refine (millerRabin_iff_of_candidate a hn hk (Nat.odd_iff.1 hd)).2 ?_
    by_cases ha : a % n = 0
    · exact .inl ha
    · exact .inr (.inr (.inr (strongCondition_of_prime hp ha hk)))

/-! ### MRROUND (43_primality.md R77) -/

/-- Settles O13: the checks are the row of the table, which allows any N, and the completion is that of the round's verdict. -/
theorem mrroundAcceptAndResult : Obligations.MrroundAcceptAndResult := by
  unfold Obligations.MrroundAcceptAndResult
  refine ⟨decode_encode .mrround, fun s => ⟨fun hp => ?_, fun hp => ?_⟩⟩
  · obtain ⟨-, -, -, -, hchecks, -⟩ := checksInTableOrder.2 s
    rw [exec_of_idle s .mrround (by decide) hp, hchecks]
    simp only [accept_ite, accept_eq_acceptedAs, accept_eq_failedAs, ne_eq, reduceCtorEq, not_false_eq_true]
    rfl
  · rw [exec_mrround_of_running s _ hp]
    exact ⟨fun h => by rw [h]; rfl, fun h => by rw [h]; rfl⟩

/-! ### The completing step of MRTEST (43_primality.md R79) -/

theorem exec_mrtest_of_trivial {s : State} {f : Bool} (hp : s.phase = .running .mrtest) (h : trivialVerdict s.n = some f) :
    exec .mrtest s = .next (s.completeVerdict f) := by
  rw [exec_mrtest_of_running s _ hp, mrtestEngine, State.op_N, h]

/-- With BASESRC = 0 the bases are the first ROUNDS of the table (43_primality.md R78). -/
theorem exec_mrtest_of_fixed {s : State} (hp : s.phase = .running .mrtest) (hb : s.basesrc = false)
    (h : trivialVerdict s.n = none) :
    exec .mrtest s = .next (s.completeVerdict (roundsPass s.n (Config.fixedTable.take s.rounds.toNat))) := by
  rw [exec_mrtest_of_running s _ hp, mrtestEngine, State.op_N, h, hb, fixedVerdict, h]
  rfl

/-- Settles O14: the verdict of a trivial candidate, and the rounds over the table. -/
theorem mrtestWithoutDraws : Obligations.MrtestWithoutDraws := by
  unfold Obligations.MrtestWithoutDraws
  refine ⟨decode_encode .mrtest, fun s => ⟨fun hp => ?_, fun hp => ⟨fun hn => ?_, fun hn => ?_, fun hb hlarge hodd => ?_⟩⟩⟩
  · obtain ⟨-, -, -, -, -, hchecks, -⟩ := checksInTableOrder.2 s
    rw [exec_of_idle s .mrtest (by decide) hp, hchecks]
    simp only [accept_ite, accept_eq_acceptedAs, accept_eq_failedAs, ne_eq, reduceCtorEq, not_false_eq_true]
    rfl
  · exact exec_mrtest_of_trivial hp ((trivialVerdict_eq_some_iff s.n true).2 ⟨by omega, iff_of_true rfl hn⟩)
  · exact exec_mrtest_of_trivial hp
      ((trivialVerdict_eq_some_iff s.n false).2 ⟨by omega, iff_of_false Bool.false_ne_true (by omega)⟩)
  · rw [exec_mrtest_of_fixed hp hb ((trivialVerdict_eq_none_iff s.n).2 ⟨hlarge, hodd⟩)]
    constructor
    · intro hpass
      rw [(roundsPass_iff s.n (Config.fixedTable.take s.rounds.toNat)).2 hpass]
      rfl
    · rintro ⟨a, ha, hfail⟩
      have hnot : roundsPass s.n (Config.fixedTable.take s.rounds.toNat) = false := by
        rw [← Bool.not_eq_true, roundsPass_iff]
        exact fun hpass => by simp [hpass a ha] at hfail
      rw [hnot]
      rfl

/-! ### A step of MRTEST that draws its bases (43_primality.md R78, 60_exceptions.md R100) -/

theorem drawnRound_of_fail {s : State} {a : Nat} (h : millerRabin s.n a = false) : s.drawnRound a = s.completeVerdict false := by
  rw [State.drawnRound, State.op_N, h]
  rfl

theorem drawnRound_of_last {s : State} {a : Nat} (h : millerRabin s.n a = true) (hlast : s.rounds.toNat ≤ s.round + 1) :
    s.drawnRound a = s.completeVerdict true := by
  rw [State.drawnRound, State.op_N, if_pos h, if_neg (by omega)]

theorem drawnRound_of_pass {s : State} {a : Nat} (h : millerRabin s.n a = true) (hleft : s.round + 1 < s.rounds.toNat) :
    s.drawnRound a = s.askForBase (s.round + 1) := by
  rw [State.drawnRound, State.op_N, if_pos h, if_pos hleft]

theorem exec_mrtest_of_noRequest {s : State} (hp : s.phase = .running .mrtest) (hb : s.basesrc = true)
    (h : trivialVerdict s.n = none) (he : s.entropy = .none) : exec .mrtest s = .next (s.askForBase s.round) := by
  rw [exec_mrtest_of_running s _ hp, mrtestEngine, State.op_N, h, hb, he]
  rfl

theorem exec_mrtest_of_answered {s : State} {a : Nat} (hp : s.phase = .running .mrtest) (hb : s.basesrc = true)
    (h : trivialVerdict s.n = none) (he : s.entropy = .answered a) : exec .mrtest s = .next (s.drawnRound a) := by
  rw [exec_mrtest_of_running s _ hp, mrtestEngine, State.op_N, h, hb, he]
  rfl

/-- A starved engine's step of MRTEST changes nothing. -/
theorem State.Starved.exec_mrtest {s : State} (h : s.Starved) : exec .mrtest s = .next s :=
  (engineStep_of_running s _ h.running).symm.trans (h.handle .engine (.inl rfl))

/-- Settles O15: by what the entropy port holds, and then by what the round answers and which round it is. -/
theorem mrtestDrawnRound : Obligations.MrtestDrawnRound := by
  unfold Obligations.MrtestDrawnRound
  intro s hp hb hlarge hodd
  have hn : trivialVerdict s.n = none := (trivialVerdict_eq_none_iff s.n).2 ⟨hlarge, hodd⟩
  have hscratch : Config.freeScratch s.freeCount % 2 ^ s.params.opw < 2 ^ s.params.opw := Nat.mod_lt _ (Nat.two_pow_pos _)
  refine ⟨fun he => ⟨_, hscratch, exec_mrtest_of_noRequest hp hb hn he⟩, fun he => State.Starved.exec_mrtest ⟨hp, he, hb, hn⟩,
    fun a he => ?_⟩
  rw [exec_mrtest_of_answered hp hb hn he]
  refine ⟨fun hfail => ?_, fun hpass hlast => ?_, fun hpass hleft => ⟨_, hscratch, ?_⟩⟩
  · rw [drawnRound_of_fail hfail]
    rfl
  · rw [drawnRound_of_last hpass hlast]
    rfl
  · rw [drawnRound_of_pass hpass hleft]
    rfl

/-! ### A run of MRTEST that draws its bases (43_primality.md R78, R79) -/

/-- The answer to a request, and the engine's step on it. -/
def drawOf (a : Nat) : List Event := [.entropy a, .engine]

theorem drawEvents_eq (bases : List Nat) : drawEvents bases = .engine :: bases.flatMap drawOf := rfl

/-- A waiting engine takes a base of `[2, N-2]` and runs the round on it; the round reads nothing else of the port. -/
theorem State.Starved.runEvents_drawOf {s : State} (h : s.Starved) {a : Nat} (ha : 2 ≤ a ∧ a ≤ s.n - 2) :
    s.runEvents (drawOf a) = .next (s.drawnRound a) := by
  have hoffer : s.handle (.entropy a) = .next { s with entropy := .answered a } := by
    have hrange : 2 ≤ a ∧ a + 2 ≤ s.op .N := ⟨ha.1, by rw [State.op_N]; omega⟩
    rw [State.handle, State.offerEntropy, State.waiting, h.requested, decide_eq_true rfl, decide_eq_true hrange]
    rfl
  have hround : ({ s with entropy := .answered a } : State).handle .engine = .next (s.drawnRound a) :=
    (engineStep_of_running { s with entropy := .answered a } _ h.running).trans
      (exec_mrtest_of_answered h.running h.drawing h.candidate rfl)
  rw [drawOf, runEvents_cons _ _ _ _ hoffer, runEvents_cons _ _ _ _ hround, runEvents_nil]

/-- The round that ends the test: it fails, or it passes and is the last. -/
theorem drawnRound_of_end {s : State} {a : Nat} {f : Bool} (h : millerRabin s.n a = f)
    (hlast : f = true → s.rounds.toNat ≤ s.round + 1) : s.drawnRound a = s.completeVerdict f := by
  cases f with
  | false => exact drawnRound_of_fail h
  | true => exact drawnRound_of_last h (hlast rfl)

/-- A waiting engine runs one round on each base, up to the one that ends the test. -/
theorem State.Starved.runEvents_draws {s : State} (h : s.Starved) (passed : List Nat) {last : Nat} {f : Bool}
    (hrange : ∀ a ∈ passed ++ [last], 2 ≤ a ∧ a ≤ s.n - 2) (hpass : ∀ a ∈ passed, millerRabin s.n a = true)
    (hleft : s.round + passed.length < s.rounds.toNat) (hend : millerRabin s.n last = f)
    (hlast : f = true → s.rounds.toNat ≤ s.round + passed.length + 1) :
    ∃ k, s.runEvents ((passed ++ [last]).flatMap drawOf) = .next { s.completeVerdict f with freeCount := k } := by
  induction passed generalizing s with
  | nil =>
    have hdraw := h.runEvents_drawOf (hrange last (by simp))
    rw [drawnRound_of_end hend hlast] at hdraw
    exact ⟨s.freeCount, hdraw⟩
  | cons a passed ih =>
    rw [List.cons_append, List.forall_mem_cons] at hrange
    rw [List.forall_mem_cons] at hpass
    have hcount : s.round + (a :: passed).length = s.round + 1 + passed.length := by rw [List.length_cons]; omega
    rw [hcount] at hleft hlast
    have hdraw := h.runEvents_drawOf hrange.1
    rw [drawnRound_of_pass hpass.1 (by omega)] at hdraw
    obtain ⟨k, hrest⟩ := ih (s := s.askForBase (s.round + 1)) ⟨h.running, rfl, h.drawing, h.candidate⟩ hrange.2 hpass.2
      hleft hend hlast
    exact ⟨k, (runEvents_append _ _ _ _ hdraw).trans hrest⟩

/-- The whole run, from the step that asks for the first base. -/
theorem runEvents_drawEvents {s : State} (hp : s.phase = .running .mrtest) (hb : s.basesrc = true)
    (hn : trivialVerdict s.n = none) (he : s.entropy = .none) (hround : s.round = 0) (passed : List Nat) {last : Nat} {f : Bool}
    (hrange : ∀ a ∈ passed ++ [last], 2 ≤ a ∧ a ≤ s.n - 2) (hpass : ∀ a ∈ passed, millerRabin s.n a = true)
    (hleft : passed.length < s.rounds.toNat) (hend : millerRabin s.n last = f)
    (hlast : f = true → s.rounds.toNat ≤ passed.length + 1) :
    ∃ k, s.runEvents (drawEvents (passed ++ [last])) = .next { s.completeVerdict f with freeCount := k } := by
  have hfirst : s.handle .engine = .next (s.askForBase 0) :=
    (engineStep_of_running s _ hp).trans (hround ▸ exec_mrtest_of_noRequest hp hb hn he)
  have hasked : (s.askForBase 0).Starved := ⟨hp, rfl, hb, hn⟩
  obtain ⟨k, hrun⟩ := hasked.runEvents_draws passed (f := f) hrange hpass (by simpa using hleft) hend (by simpa using hlast)
  exact ⟨k, (runEvents_cons _ _ _ _ hfirst).trans hrun⟩

/-- Settles O16: ROUNDS passing bases end with a last one, which is the only one that may complete the test with 1. -/
theorem mrtestDrawnRun : Obligations.MrtestDrawnRun := by
  unfold Obligations.MrtestDrawnRun
  intro s hp hb hlarge hodd he hround hrounds
  have hn : trivialVerdict s.n = none := (trivialVerdict_eq_none_iff s.n).2 ⟨hlarge, hodd⟩
  constructor
  · intro bases hlength hrange hpass
    obtain rfl | ⟨passed, last, rfl⟩ := List.eq_nil_or_concat' bases
    · rw [← hlength] at hrounds
      exact absurd hrounds (Nat.lt_irrefl 0)
    · rw [List.length_append, List.length_singleton] at hlength
      exact runEvents_drawEvents hp hb hn he hround passed hrange (fun a ha => hpass a (by simp [ha])) (by omega)
        (hpass last (by simp)) fun _ => hlength.ge
  · intro passed last hleft hrange hpass hfail
    exact runEvents_drawEvents hp hb hn he hround passed hrange hpass hleft hfail fun h => absurd h Bool.false_ne_true

/-! ### The answers for a prime (43_primality.md R80) -/

/-- An engine step of an MRTEST of a prime completes it with 1, or leaves it running to draw the next base. -/
theorem exec_mrtest_of_prime {s : State} (hp : s.phase = .running .mrtest) (hn : s.n.Prime) :
    exec .mrtest s = .next (s.completeVerdict true) ∨ ∃ t, exec .mrtest s = .next t ∧ t.phase = .running .mrtest := by
  have hpass : ∀ a, millerRabin s.n a = true := fun a => millerRabin_of_prime a hn
  cases hv : trivialVerdict s.n with
  | some f =>
    have hf : f = true := (millerRabin_of_trivialVerdict 0 hv).symm.trans (hpass 0)
    exact .inl (hf ▸ exec_mrtest_of_trivial hp hv)
  | none =>
    cases hb : s.basesrc with
    | false =>
      left
      rw [exec_mrtest_of_fixed hp hb hv, (roundsPass_iff s.n _).2 fun a _ => hpass a]
    | true =>
      cases he : s.entropy with
      | none => exact .inr ⟨_, exec_mrtest_of_noRequest hp hb hv he, hp⟩
      | requested => exact .inr ⟨s, State.Starved.exec_mrtest ⟨hp, he, hb, hv⟩, hp⟩
      | answered a =>
        rw [exec_mrtest_of_answered hp hb hv he]
        by_cases hleft : s.round + 1 < s.rounds.toNat
        · exact .inr ⟨_, congrArg _ (drawnRound_of_pass (hpass a) hleft), hp⟩
        · exact .inl (congrArg _ (drawnRound_of_last (hpass a) (Nat.le_of_not_lt hleft)))

/-- Settles O48: every round of a prime passes, so no step of MRROUND or MRTEST can complete with 0. -/
theorem primeAlwaysPasses : Obligations.PrimeAlwaysPasses := by
  unfold Obligations.PrimeAlwaysPasses
  refine ⟨fun n a => millerRabin_of_prime a, fun s t hn hp h => ?_, fun s t hn hp h hidle => ?_⟩
  · rw [exec_mrround_of_running s _ hp, millerRabin_of_prime s.a hn] at h
    injection h with h
    subst h
    exact ⟨rfl, rfl⟩
  · obtain hdone | ⟨u, hu, hrunning⟩ := exec_mrtest_of_prime hp hn
    · rw [hdone] at h
      injection h with h
      subst h
      exact ⟨rfl, rfl⟩
    · rw [hu] at h
      injection h with h
      subst h
      rw [hrunning] at hidle
      cases hidle

end Sys2Proof.Machine

/-! SUPPORT. Proofs about MODINV (44_modinv.md): its accept, its two completions, and what RESULT and R mean after it. -/

namespace Sys2Proof.Machine

/-! ### The completing step of MODINV (44_modinv.md R82) -/

/-- With A and N coprime, MODINV completes with the inverse of A below N. -/
theorem exec_modinv_of_coprime {s : State} (hp : s.phase = .running .modinv) (hn : 0 < s.n)
    (hg : Nat.gcd s.a s.n = 1) :
    ∃ v, v < s.n ∧ s.a * v % s.n = 1 % s.n ∧ exec .modinv s = .next (completedWith s v true) := by
  rw [exec_modinv_of_running s _ hp]
  cases hv : modInv s.a s.n with
  | none => exact absurd hg ((modInv_none_iff s.a s.n).1 hv)
  | some v =>
    obtain ⟨hlt, hinv⟩ := (modInv_some_iff s.a s.n v hn).1 hv
    exact ⟨v, hlt, hinv, rfl⟩

/-- With a common factor of A and N, MODINV completes with R = 0 and RESULT = 0. -/
theorem exec_modinv_of_common_factor {s : State} (hp : s.phase = .running .modinv) (hg : Nat.gcd s.a s.n ≠ 1) :
    exec .modinv s = .next (completedWith s 0 false) := by
  rw [exec_modinv_of_running s _ hp, (modInv_none_iff s.a s.n).2 hg]
  rfl

/-- Settles O18: the checks are the row of the table, which allows an even N and any A, and the completion is by whether A and N
have a common factor, which reducing A modulo N does not change. -/
theorem modinvAcceptAndResult : Obligations.ModinvAcceptAndResult := by
  unfold Obligations.ModinvAcceptAndResult
  refine ⟨decode_encode .modinv, fun s => ⟨fun hp => ?_, fun hp hn => ?_⟩⟩
  · obtain ⟨-, -, -, -, -, -, hchecks⟩ := checksInTableOrder.2 s
    rw [exec_of_idle s .modinv (by decide) hp, hchecks]
    simp only [accept_ite, accept_eq_acceptedAs, accept_eq_failedAs, ne_eq, reduceCtorEq, not_false_eq_true]
    rfl
  · simp only [gcd_mod_left, Nat.mod_mul_mod]
    exact ⟨exec_modinv_of_coprime hp hn, exec_modinv_of_common_factor hp⟩

/-! ### RESULT and R after MODINV (44_modinv.md R83) -/

/-- Only modulo 1 is 0 an inverse. -/
theorem eq_one_of_zero_inverse {a n : Nat} (h : a * 0 % n = 1 % n) : n = 1 := by
  rw [Nat.mul_zero, Nat.zero_mod] at h
  exact Nat.one_mod_eq_zero_iff.1 h.symm

/-- Settles O19: each of the two completions answers one value of RESULT, so RESULT tells which of them it was. -/
theorem modinvResultIsInverse : Obligations.ModinvResultIsInverse := by
  unfold Obligations.ModinvResultIsInverse
  intro s t hp hn h
  by_cases hg : Nat.gcd s.a s.n = 1
  · obtain ⟨v, hlt, hinv, hexec⟩ := exec_modinv_of_coprime hp hn hg
    rw [hexec] at h
    injection h with h
    subst h
    refine ⟨fun _ => ⟨hinv, hlt⟩, nofun, fun _ hr => ?_⟩
    obtain rfl : v = 0 := hr
    exact eq_one_of_zero_inverse hinv
  · rw [exec_modinv_of_common_factor hp hg] at h
    injection h with h
    subst h
    have hpos : 0 < Nat.gcd s.a s.n := Nat.gcd_pos_of_pos_right _ hn
    exact ⟨nofun, fun _ => ⟨by omega, rfl⟩, nofun⟩

end Sys2Proof.Machine

/-! SUPPORT. Proofs about the host procedures (48_host_procedures.md): the encryption block and its recovery, the lengths of
encryption and decryption, key generation, and decryption after encryption. -/

namespace Sys2Proof.Machine

/-! ### The length of a call (48_host_procedures.md R86) -/

theorem hostLen_pos (x : Nat) : 0 < hostLen x := Nat.le_max_left 1 _

/-- `hostLen x` is the least number of words, and at least one, that holds `x`. -/
theorem hostLen_le_iff {x k : Nat} (hk : 0 < k) : hostLen x ≤ k ↔ x < 2 ^ (32 * k) := by
  rw [← bitLen_le_iff, hostLen]
  omega

theorem lt_two_pow_hostLen (x : Nat) : x < 2 ^ (32 * hostLen x) := (hostLen_le_iff (hostLen_pos x)).1 le_rfl

/-! ### What a procedure that succeeds has done -/

theorem HostResult.andThen_eq_ok {α β : Type} {x : HostResult α} {f : α → HostResult β} {w : β}
    (h : x.andThen f = .ok w) : ∃ v, x = .ok v ∧ f v = .ok w := by
  cases x with
  | ok v => exact ⟨v, rfl, h⟩
  | err e => cases h
  | internalFault => cases h
  | blocked => cases h

theorem callModexp_eq_ok_iff (p : Params) (a e n c : Nat) :
    callModexp p a e n = .ok c ↔ n % 2 = 1 ∧ hostLen (max a (max e n)) ≤ p.maxw ∧ powMod a e n = c := by
  rw [callModexp]
  split <;> simp_all

theorem callModinv_eq_ok_iff (p : Params) (a n : Nat) (x : Option Nat) :
    callModinv p a n = .ok x ↔ 0 < n ∧ hostLen (max a n) ≤ p.maxw ∧ modInv a n = x := by
  rw [callModinv]
  split <;> simp_all

/-! ### The padding (48_host_procedures.md R90) -/

/-- Rejection sampling gives as many bytes as it was asked for, none of them zero. -/
theorem takePadding_spec (k : Nat) (stream pad : List Byte) (h : takePadding k stream = some pad) :
    pad.length = k ∧ ∀ x ∈ pad, x ≠ 0#8 := by
  induction stream generalizing k pad with
  | nil =>
    cases k with
    | zero => cases h; simp
    | succ k => cases h
  | cons x stream ih =>
    cases k with
    | zero => cases h; simp
    | succ k =>
      rw [takePadding] at h
      split at h
      case isTrue => exact ih (k + 1) pad h
      case isFalse hx =>
        split at h
        case h_1 rest hrest =>
          cases h
          obtain ⟨hlength, hnonzero⟩ := ih k rest hrest
          exact ⟨by rw [List.length_cons, hlength], List.forall_mem_cons.2 ⟨hx, hnonzero⟩⟩
        case h_2 => cases h

/-- A ciphertext is the power of an encryption block that fills the modulus's bytes. -/
theorem encrypt_eq_ok {p : Params} {pub : PublicKey} {message stream c : List Byte}
    (h : encrypt p pub message stream = .ok c) :
    ∃ pad, (∀ x ∈ pad, x ≠ 0#8) ∧ (encryptionBlock pad message).length = modulusBytes pub.n ∧ pub.n % 2 = 1 ∧
      c = bytesOfNat (modulusBytes pub.n) (powMod (natOfBytes (encryptionBlock pad message)) pub.e pub.n) := by
  rw [encrypt] at h
  split at h
  case isTrue => cases h
  case isFalse hfits =>
    split at h
    case h_1 => cases h
    case h_2 pad hpad =>
      obtain ⟨hlength, hnonzero⟩ := takePadding_spec _ _ _ hpad
      obtain ⟨m, hcall, hc⟩ := HostResult.andThen_eq_ok h
      obtain ⟨hodd, -, rfl⟩ := (callModexp_eq_ok_iff _ _ _ _ _).1 hcall
      cases hc
      refine ⟨pad, hnonzero, ?_, hodd, rfl⟩
      simp only [encryptionBlock, List.length_cons, List.length_append]
      omega

/-- Settles O50: the guards refuse the two lengths, and a ciphertext is the `k` bytes of a power. -/
theorem codecLengths : Obligations.CodecLengths := by
  unfold Obligations.CodecLengths
  intro p pub priv l stream c
  refine ⟨fun h => if_pos h, fun h => ?_, fun h => if_pos h⟩
  obtain ⟨pad, -, -, -, rfl⟩ := encrypt_eq_ok h
  exact bytesOfNat_length _ _

/-! ### Recovered blocks (48_host_procedures.md R92) -/

/-- The terminator is the first zero byte. -/
theorem afterTerminator_append (pad : List Byte) (h : ∀ x ∈ pad, x ≠ 0x00#8) (rest : List Byte) :
    afterTerminator (pad ++ rest) = afterTerminator rest := by
  induction pad with
  | nil => rfl
  | cons x pad ih =>
    obtain ⟨hx, hpad⟩ := List.forall_mem_cons.1 h
    rw [List.cons_append, afterTerminator, if_neg hx, ih hpad]

theorem unpad_of_leadingByte {b0 : Byte} (rest : List Byte) (h : b0 ≠ 0x00#8) :
    unpad (b0 :: rest) = .err (.malformedBlock .leadingZero) := if_pos h

theorem unpad_of_blockType {b1 : Byte} (rest : List Byte) (h : b1 ≠ 0x02#8) :
    unpad (0x00#8 :: b1 :: rest) = .err (.malformedBlock .blockType) := by
  simp [unpad, h]

theorem unpad_of_terminator {body message : List Byte} (h : afterTerminator body = some message) :
    unpad (0x00#8 :: 0x02#8 :: body) = .ok message := by
  simp [unpad, h]

theorem unpad_of_no_terminator {body : List Byte} (h : afterTerminator body = none) :
    unpad (0x00#8 :: 0x02#8 :: body) = .err (.malformedBlock .missingTerminator) := by
  simp [unpad, h]

theorem unpad_encryptionBlock (pad message : List Byte) (h : ∀ x ∈ pad, x ≠ 0x00#8) :
    unpad (encryptionBlock pad message) = .ok message :=
  unpad_of_terminator (afterTerminator_append pad h (0x00#8 :: message))

/-- Settles O51: the bytes 0 and 1 are looked at in turn, and then the first zero byte is sought. -/
theorem recoveredBlocks : Obligations.RecoveredBlocks := by
  unfold Obligations.RecoveredBlocks
  refine ⟨unpad_encryptionBlock, fun b0 rest => unpad_of_leadingByte rest, rfl, fun b1 rest => unpad_of_blockType rest,
    fun body h => unpad_of_no_terminator ?_⟩
  have hnone := afterTerminator_append body h []
  rwa [List.append_nil] at hnone

/-! ### Decryption after encryption (48_host_procedures.md R93) -/

/-- A modulus fills its bytes: it needs the highest one. -/
theorem pow_pred_modulusBytes_le {n : Nat} (hn : 0 < n) : 256 ^ (modulusBytes n - 1) ≤ n := by
  have hpow : 256 ^ (modulusBytes n - 1) = 2 ^ (8 * (modulusBytes n - 1)) := by rw [Nat.pow_mul]
  have hbits : 0 < bitLen n := Nat.pos_of_ne_zero fun h => by
    have hlt := (bitLen_le_iff n 0).1 h.le
    omega
  by_contra hlt
  have hshort := (bitLen_le_iff n _).2 (hpow ▸ Nat.lt_of_not_le hlt)
  rw [modulusBytes] at hshort
  omega

theorem lt_pow_modulusBytes (n : Nat) : n < 256 ^ modulusBytes n := by
  have hpow : 256 ^ modulusBytes n = 2 ^ (8 * modulusBytes n) := by rw [Nat.pow_mul]
  rw [hpow, ← bitLen_le_iff, modulusBytes]
  omega

/-- An encryption block as long as the modulus is below it: its highest byte is zero. -/
theorem natOfBytes_encryptionBlock_lt {pad message : List Byte} {n : Nat} (hn : 0 < n)
    (h : (encryptionBlock pad message).length = modulusBytes n) : natOfBytes (encryptionBlock pad message) < n := by
  refine lt_of_lt_of_le ?_ (pow_pred_modulusBytes_le hn)
  rw [← h, encryptionBlock, natOfBytes_cons, List.length_cons (a := 0x00#8), Nat.add_sub_cancel, BitVec.toNat_ofNat,
    Nat.zero_mod, Nat.zero_mul, Nat.zero_add]
  exact natOfBytes_lt _

/-- Settles O53: the two powers compute `m^(e*d)` modulo the product of the primes, which is the block's number `m`, and that
number is below the modulus. -/
theorem decryptUndoesEncrypt : Obligations.DecryptUndoesEncrypt := by
  unfold Obligations.DecryptUndoesEncrypt
  intro prm priv message stream c hp hq hpq hn hed hlen henc
  obtain ⟨pad, hpad, hblock, hodd, rfl⟩ := encrypt_eq_ok henc
  have hpos : 0 < priv.pub.n := by omega
  have hm := natOfBytes_encryptionBlock_lt hpos hblock
  generalize hmdef : natOfBytes (encryptionBlock pad message) = m at hm
  have hc := powMod_lt m priv.pub.e priv.pub.n hpos
  have hread : natOfBytes (bytesOfNat (modulusBytes priv.pub.n) (powMod m priv.pub.e priv.pub.n)) =
      powMod m priv.pub.e priv.pub.n := by
    rw [natOfBytes_bytesOfNat, Nat.mod_eq_of_lt (hc.trans (lt_pow_modulusBytes _))]
  have hround : powMod (powMod m priv.pub.e priv.pub.n) priv.d priv.pub.n = m :=
    calc powMod (powMod m priv.pub.e priv.pub.n) priv.d priv.pub.n
        = m ^ (priv.pub.e * priv.d) % priv.pub.n := powMod_powMod _ _ _ hpos
      _ = m % priv.pub.n := by rw [hn]; exact pow_modEq_self_of_primes hp hq hpq hed m
      _ = m := Nat.mod_eq_of_lt hm
  have hcall : callModexp prm (powMod m priv.pub.e priv.pub.n) priv.d priv.pub.n = .ok m := by
    refine (callModexp_eq_ok_iff _ _ _ _ _).2 ⟨hodd, ?_, hround⟩
    rwa [max_eq_right (hc.le.trans (le_max_right _ _))]
  rw [decrypt, if_neg (not_not_intro (bytesOfNat_length _ _)), hread, hcall]
  show unpad (bytesOfNat (modulusBytes priv.pub.n) m) = .ok message
  rw [← hblock, ← hmdef, bytesOfNat_natOfBytes, unpad_encryptionBlock pad message hpad]

/-! ### Key generation (48_host_procedures.md R88, R89) -/

/-- A prime of fewer than two bits ends the first attempt. -/
theorem generateLoop_of_few_bits (p : Params) (bits k : Nat) (rnd : HostRandom) (h : bits / 2 < 2) :
    generateLoop p bits (k + 1) 0 0 rnd = .err .invalidParameter := by
  rw [generateLoop, chooseFactor, if_pos rfl, freshPrime, if_pos h]
  rfl

/-- Settles O52: the guard of `generate`, and that of `freshPrime` on half the bits. -/
theorem keyGenerationRefusals : Obligations.KeyGenerationRefusals := by
  unfold Obligations.KeyGenerationRefusals
  intro prm bits rnd
  refine ⟨fun sp sq h => if_pos h, fun hlow hhigh => ?_⟩
  rw [generate, if_neg (by omega), generateLoop_of_few_bits _ _ _ _ (by omega)]

/-- A key comes of an attempt whose two factors `keyOfFactors` accepts. -/
theorem generateLoop_eq_ok {p : Params} {bits k sp sq : Nat} {rnd : HostRandom} {key : PrivateKey}
    (h : generateLoop p bits k sp sq rnd = .ok key) : ∃ f g, keyOfFactors p bits f g = .ok (some key) := by
  induction k generalizing sp sq rnd with
  | zero => cases h
  | succ k ih =>
    rw [generateLoop] at h
    obtain ⟨f, -, h⟩ := HostResult.andThen_eq_ok h
    obtain ⟨g, -, h⟩ := HostResult.andThen_eq_ok h
    obtain ⟨attempt, hkey, h⟩ := HostResult.andThen_eq_ok h
    cases attempt with
    | some v => cases h; exact ⟨_, _, hkey⟩
    | none => exact ih h

/-- The checks of an attempt that is not discarded, and its key. -/
theorem keyOfFactors_eq_some {p : Params} {bits f g : Nat} {key : PrivateKey}
    (h : keyOfFactors p bits f g = .ok (some key)) :
    bitLen (f * g) = bits ∧ f ≠ g ∧ f * g % 2 ≠ 0 ∧ ∃ d, 0 < (f - 1) * (g - 1) ∧
      modInv 65537 ((f - 1) * (g - 1)) = some d ∧ key = { pub := { n := f * g, e := 65537 }, d := d, p := f, q := g } := by
  rw [keyOfFactors] at h
  split_ifs at h with hbits heq heven
  · cases h
  · cases h
  · cases h
  · obtain ⟨inverse, hcall, h⟩ := HostResult.andThen_eq_ok h
    obtain ⟨hpos, -, hinv⟩ := (callModinv_eq_ok_iff _ _ _ _).1 hcall
    cases inverse with
    | some d => cases h; exact ⟨not_not.1 hbits, heq, heven, d, hpos, hinv, rfl⟩
    | none => cases h

/-- Settles O54: the checks of the attempt that gave the key, and what MODINV answers. -/
theorem generatedKeysAreSound : Obligations.GeneratedKeysAreSound := by
  unfold Obligations.GeneratedKeysAreSound
  intro prm bits sp sq rnd key h
  rw [generate] at h
  split at h
  case isTrue => cases h
  case isFalse hbits =>
    obtain ⟨f, g, hkey⟩ := generateLoop_eq_ok h
    obtain ⟨hlength, hne, hodd, d, hpos, hinv, rfl⟩ := keyOfFactors_eq_some hkey
    refine ⟨by dsimp only; omega, rfl, hne, Nat.mod_two_ne_zero.1 hodd, rfl, fun hone => ?_⟩
    obtain ⟨-, hmul⟩ := (modInv_some_iff _ _ _ hpos).1 hinv
    rw [Nat.mul_comm, hmul, Nat.mod_eq_of_lt hone]

end Sys2Proof.Machine

/-! SUPPORT. Proofs about `call` on the bus (48_host_procedures.md R86): the accesses up to the CMD write, what the host reads of
a command that failed at accept or completed, and the calls themselves. -/

namespace Sys2Proof.Machine

/-! ### The loads of a call (48_host_procedures.md R86, 20_memory.md R45) -/

/-- `s` with the registers of a list set in turn to the operands of a call. -/
def State.withOperands (s : State) (v : OpReg → Nat) (regs : List OpReg) : State :=
  regs.foldl (fun u x => u.setOperand x (v x)) s

theorem loadedFor_eq_withOperands (s : State) (i : Instr) (v : OpReg → Nat) (len : Nat) :
    loadedFor s i v len = { s.withOperands v (operandsRead i) with len := BitVec.ofNat 16 len } := rfl

theorem State.withOperands_cons (s : State) (v : OpReg → Nat) (x : OpReg) (regs : List OpReg) :
    s.withOperands v (x :: regs) = (s.setOperand x (v x)).withOperands v regs := rfl

theorem State.withOperands_respond (s : State) (v : OpReg → Nat) (regs : List OpReg) (y : Response) :
    (s.respond y).withOperands v regs = (s.withOperands v regs).respond y := by
  induction regs generalizing s with
  | nil => rfl
  | cons x regs ih => rw [withOperands_cons, withOperands_cons, setOperand_respond, ih]

theorem State.Settled.withOperands {s : State} {p : Params} (h : s.Settled p) (v : OpReg → Nat) (regs : List OpReg) :
    (s.withOperands v regs).Settled p := by
  induction regs generalizing s with
  | nil => exact h
  | cons x regs ih => exact ih (h.setOperand x (v x))

theorem State.OperandsFit.setOperand {s : State} (h : s.OperandsFit) (x : OpReg) {v : Nat} (hv : v < 2 ^ s.params.opw) :
    (s.setOperand x v).OperandsFit := by
  intro y
  rw [op_setOperand, setOperand_params]
  split
  · exact hv
  · exact h y

/-- Loads of whole registers, one after another, each over an old value that need not be narrow. -/
theorem State.Settled.loads {s : State} {p : Params} (h : s.Settled p) (hpos : 0 < p.maxw) (hm : p.maxw ≤ 1024)
    (hfit : s.OperandsFit) (v : OpReg → Nat) (regs : List OpReg) (hR : ∀ x ∈ regs, x ≠ .R)
    (hv : ∀ x ∈ regs, v x < 2 ^ p.opw) (traffic rest : Traffic) (ht : quietTraffic (regs.length * p.maxw) traffic) :
    ∃ xs y, Machine.accesses (regs.flatMap fun x => ld p x (v x) p.maxw) s (traffic ++ rest) =
      .done xs ((s.withOperands v regs).respond y) rest := by
  induction regs generalizing s traffic with
  | nil =>
    obtain rfl : traffic = [] := List.length_eq_zero_iff.1 (ht.1.trans (Nat.zero_mul _))
    exact ⟨[], s.response, rfl⟩
  | cons x regs ih =>
    rw [List.length_cons, Nat.succ_mul, Nat.add_comm] at ht
    obtain ⟨first, second, rfl, hfirst, hsecond⟩ := quietTraffic_add _ _ _ ht
    obtain ⟨hRx, hR⟩ := List.forall_mem_cons.1 hR
    obtain ⟨hvx, hv⟩ := List.forall_mem_cons.1 hv
    obtain rfl := h.params
    obtain ⟨xs, hload⟩ := h.load x (v x) s.params.maxw hRx hpos le_rfl hm hvx (hfit x) first (second ++ rest) hfirst
    have hset := (h.setOperand x (v x)).respond .written
    have hfit' : ((s.setOperand x (v x)).respond .written).OperandsFit := fun y => by
      rw [op_respond]
      exact hfit.setOperand x hvx y
    obtain ⟨ys, y, hloads⟩ := ih hset hfit' hR hv second hsecond
    rw [withOperands_respond, respond_respond] at hloads
    rw [List.append_assoc]
    exact ⟨_, y, accesses_append _ _ _ _ _ _ _ _ _ _ hload hloads⟩

/-! ### LEN and the command of a call -/

/-- `setlen L` keeps the low 16 bits of L (10_state.md R29). -/
theorem handle_setlen_of_idle (s : State) (len : Nat) (hp : s.phase = .idle) :
    s.handle (wr s.params 0x0014 (BitVec.ofNat 32 len)) =
      .next (({ s with len := BitVec.ofNat 16 len } : State).respond .written) := by
  have hfield : (BitVec.ofNat 32 len).extractLsb' 0 16 = BitVec.ofNat 16 len := by
    apply BitVec.eq_of_toNat_eq
    rw [BitVec.extractLsb'_toNat, BitVec.toNat_ofNat, BitVec.toNat_ofNat, Nat.shiftRight_zero,
      Nat.mod_mod_of_dvd _ (by decide)]
  rw [handle_wr_len, writeLen_of_idle (s.respond .written) _ hp, hfield]
  rfl

theorem accept_respond (s : State) (i : Instr) (c : ErrCode) (y : Response) :
    (s.respond y).accept i c = (s.accept i c).respond y := by
  rw [State.accept, State.accept]
  split <;> rfl

/-- A CMD write to an idle block is the accept of its command. -/
theorem handle_cmd_of_idle (s : State) (i : Instr) (hp : s.phase = .idle) (hi : i ≠ .nop) :
    s.handle (cmd s.params i) = .next ((s.accept i (checksOf i s)).respond .written) := by
  rw [cmd, handle_cmd_of_decode s _ i hp (decode_encode i), exec_of_idle (s.respond .written) i hi hp, accept_respond,
    State.SameInputs.checksOf_eq (s := s) {} i]

/-- One write to a settled block that is answered normally. -/
theorem State.Settled.access_written {s : State} {p : Params} (h : s.Settled p) {ev : Event} {t : State} {batch : List Event}
    (rest : Traffic) (hq : quiet batch) (ht : s.handle ev = .next (t.respond .written)) :
    Machine.accesses [ev] s (batch :: rest) = .done [.written] (t.respond .written) rest :=
  accesses_cons _ _ _ _ _ _ _ _ _ _ ((h.access_cons ev _ batch rest hq ht).trans (ofAnswer_of_written _ _ rfl)) rfl

/-- `setlen L` to a settled block. -/
theorem State.Settled.setlen {s : State} {p : Params} (h : s.Settled p) (len : Nat) {batch : List Event} (rest : Traffic)
    (hq : quiet batch) :
    Machine.accesses (Machine.setlen p len) s (batch :: rest) =
      .done [.written] (({ s with len := BitVec.ofNat 16 len } : State).respond .written) rest := by
  obtain rfl := h.params
  exact h.access_written rest hq (handle_setlen_of_idle s len h.idle)

/-- `cmd MNEMONIC` to a settled block. -/
theorem State.Settled.cmd {s : State} {p : Params} (h : s.Settled p) (i : Instr) (hi : i ≠ .nop) {batch : List Event}
    (rest : Traffic) (hq : quiet batch) :
    Machine.accesses [Machine.cmd p i] s (batch :: rest) =
      .done [.written] ((s.accept i (checksOf i s)).respond .written) rest := by
  obtain rfl := h.params
  exact h.access_written rest hq (handle_cmd_of_idle s i h.idle hi)

theorem State.Settled.loadedFor {s : State} {p : Params} (h : s.Settled p) (i : Instr) (v : OpReg → Nat) (len : Nat) :
    (Machine.loadedFor s i v len).Settled p := by
  obtain ⟨hidle, hnone, hparams⟩ := h.withOperands v (operandsRead i)
  rw [loadedFor_eq_withOperands]
  exact ⟨hidle, hnone, hparams⟩

theorem ne_R_of_mem_operandsRead {i : Instr} {x : OpReg} (h : x ∈ operandsRead i) : x ≠ .R := by
  rintro rfl
  cases i <;> exact absurd h (by decide)

/-- The accesses of a call up to its CMD write leave the accept of the command on the operands loaded. -/
theorem State.Inv.callAccesses {s : State} (hs : s.Inv) (hp : s.phase = .idle) (i : Instr) (hi : i ≠ .nop) (v : OpReg → Nat)
    (hv : ∀ x ∈ operandsRead i, v x < 2 ^ s.params.opw) (len : Nat) (before rest : Traffic)
    (hb : quietTraffic ((operandsRead i).length * s.params.maxw + 2) before) :
    ∃ xs, accesses (Machine.callAccesses s.params i v len) s (before ++ rest) =
      .done xs (((loadedFor s i v len).accept i (checksOf i (loadedFor s i v len))).respond .written) rest := by
  obtain ⟨hlow, hm⟩ := (Params.wellFormed_iff s.params).1 hs.params
  have hset := hs.settled hp
  obtain ⟨loading, starting, rfl, hloading, hstarting⟩ := quietTraffic_add _ _ _ hb
  obtain ⟨first, second, rfl, hfirst, hsecond⟩ := quietTraffic_add 1 1 _ hstarting
  obtain ⟨batch1, rfl, hq1⟩ := quietTraffic_one _ hfirst
  obtain ⟨batch2, rfl, hq2⟩ := quietTraffic_one _ hsecond
  obtain ⟨xs, y, hloads⟩ := hset.loads (by omega) hm hs.operands v (operandsRead i) (fun x => ne_R_of_mem_operandsRead) hv
    loading ([batch1] ++ [batch2] ++ rest) hloading
  have hlen := ((hset.withOperands v (operandsRead i)).respond y).setlen len ([batch2] ++ rest) hq1
  have hcmd := ((hset.loadedFor i v len).respond .written).cmd i hi rest hq2
  rw [accept_respond, State.SameInputs.checksOf_eq (s := loadedFor s i v len) {} i, respond_respond] at hcmd
  rw [Machine.callAccesses, List.append_assoc, List.append_assoc]
  exact ⟨_, accesses_append _ _ _ _ _ _ _ _ _ _ hloads (accesses_append _ _ _ _ _ _ _ _ _ _ hlen hcmd)⟩

/-! ### What the host makes of STATUS (40_command_lifecycle.md R66) -/

theorem failedAtAccept_statusWord (s : State) :
    failedAtAccept s.statusWord =
      decide (errCodeBits s.errCode = 1#4 ∨ (3 ≤ (errCodeBits s.errCode).toNat ∧ (errCodeBits s.errCode).toNat ≤ 8)) := by
  rw [failedAtAccept, statusWord_errCode]

theorem firstFailure_mem (checks : List (Bool × ErrCode)) :
    firstFailure checks = .none ∨ firstFailure checks ∈ checks.map Prod.snd := by
  induction checks with
  | nil => exact .inl rfl
  | cons p checks ih =>
    obtain ⟨failed, c⟩ := p
    rw [firstFailure_cons, List.map_cons]
    split
    · exact .inr List.mem_cons_self
    · exact ih.imp_right (List.mem_cons_of_mem c)

/-- The codes of the checks of a legal command (40_command_lifecycle.md R62). -/
theorem checksOf_mem (s : State) (i : Instr) :
    checksOf i s ∈ [ErrCode.none, .len, .width, .modzero, .evenmod, .range, .rounds] := by
  have hcodes : ∀ checks : List (Bool × ErrCode),
      checks.map Prod.snd ⊆ [.len, .width, .modzero, .evenmod, .range, .rounds] →
      firstFailure checks ∈ [ErrCode.none, .len, .width, .modzero, .evenmod, .range, .rounds] := by
    intro checks hsub
    obtain h | h := firstFailure_mem checks
    · rw [h]; exact List.mem_cons_self
    · exact List.mem_cons_of_mem _ (hsub h)
  cases i with
  | nop => exact List.mem_cons_self
  | _ => exact hcodes _ (by simp)

theorem failedAtAccept_of_checks {s u : State} {i : Instr} (hc : checksOf i s ≠ .none) (hu : u.errCode = checksOf i s) :
    failedAtAccept u.statusWord = true := by
  rw [failedAtAccept_statusWord, hu]
  have hmem := checksOf_mem s i
  simp only [List.mem_cons, List.not_mem_nil, or_false] at hmem
  obtain h | h | h | h | h | h | h := hmem
  · exact absurd h hc
  all_goals
    rw [h]
    decide

theorem failedAtAccept_of_noError {u : State} (hu : u.errCode = .none) : failedAtAccept u.statusWord = false := by
  rw [failedAtAccept_statusWord, hu]
  decide

theorem State.Settled.readStatus {s : State} {p : Params} (h : s.Settled p) (batch : List Event) (rest : Traffic)
    (hq : quiet batch) :
    Machine.readStatus p s (batch :: rest) = .done s.statusWord (s.respond (.data s.statusWord)) rest :=
  readStatus_cons p s s batch rest h.params (h.runEvents_quiet batch hq)

/-- After a completion the host uses RESULT and R (48_host_procedures.md R86). -/
theorem State.Settled.callOutcome_ok {s : State} {p : Params} (h : s.Settled p) (hm : p.maxw ≤ 1024) {len : Nat}
    (hlen : len ≤ p.maxw) (herr : s.errCode = .none) (hr : s.r < 2 ^ (32 * len)) (after rest : Traffic)
    (ha : quietTraffic (1 + len) after) :
    ∃ x, ((Machine.readStatus p).andThen fun status => callOutcome p len status) s (after ++ rest) =
      .done (.ok (s.result, s.r)) (s.respond x) rest := by
  obtain ⟨first, reads, rfl, hfirst, hreads⟩ := quietTraffic_add _ _ _ ha
  obtain ⟨batch, rfl, hq⟩ := quietTraffic_one _ hfirst
  obtain ⟨x, hread⟩ := (h.respond (.data s.statusWord)).readR len hlen hm reads rest hreads
  rw [State.respond_r, Nat.mod_eq_of_lt hr] at hread
  have hresult : s.statusWord.getLsbD 2 = s.result := statusWord_getLsbD s 2
  refine ⟨x, (Program.andThen_of_done _ _ _ _ _ _ _ (h.readStatus batch (reads ++ rest) hq)).trans ?_⟩
  rw [callOutcome, failedAtAccept_of_noError herr, if_neg Bool.false_ne_true, hresult,
    Program.andThen_of_done _ _ _ _ _ _ _ hread, respond_respond, Program.result_run]

/-- After a failed accept the host stops with an internal fault (40_command_lifecycle.md R66). -/
theorem State.Settled.callOutcome_failed {s : State} {p : Params} (h : s.Settled p) (len : Nat)
    (hfail : failedAtAccept s.statusWord = true) (batch : List Event) (rest : Traffic) (hq : quiet batch) :
    ((Machine.readStatus p).andThen fun status => callOutcome p len status) s (batch :: rest) =
      .done .internalFault (s.respond (.data s.statusWord)) rest := by
  refine (Program.andThen_of_done _ _ _ _ _ _ _ (h.readStatus batch rest hq)).trans ?_
  rw [callOutcome, if_pos hfail]
  rfl

/-! ### Calls (48_host_procedures.md R86) -/

theorem call_of_done {p : Params} {i : Instr} {v : OpReg → Nat} {s t u : State} {xs : List Response} {w : Word}
    {traffic during after : Traffic}
    (hacc : accesses (callAccesses p i v (hostLen (largestOperand i v))) s traffic = .done xs t during)
    (hwait : wait p t during = .done w u after) :
    call p i v s traffic =
      ((readStatus p).andThen fun status => callOutcome p (hostLen (largestOperand i v)) status) u after := by
  rw [call, Program.andThen_of_done _ _ _ _ _ _ _ hacc, Program.andThen_of_done _ _ _ _ _ _ _ hwait]

theorem largestOperand_lt {i : Instr} {v : OpReg → Nat} {b : Nat} (hb : 0 < b) (h : ∀ x ∈ operandsRead i, v x < b) :
    largestOperand i v < b := by
  cases i <;> simp_all [operandsRead, largestOperand]

/-- Operands that fit P_OPW need at most MAXW words. -/
theorem hostLen_largestOperand_le {p : Params} (hpos : 0 < p.maxw) {i : Instr} {v : OpReg → Nat}
    (h : ∀ x ∈ operandsRead i, v x < 2 ^ p.opw) : hostLen (largestOperand i v) ≤ p.maxw :=
  (hostLen_le_iff hpos).2 (largestOperand_lt (Nat.two_pow_pos _) h)

theorem loadedFor_len (s : State) (i : Instr) (v : OpReg → Nat) {len : Nat} (h : len ≤ 1024) :
    (loadedFor s i v len).len.toNat = len := by
  show (BitVec.ofNat 16 len).toNat = len
  rw [BitVec.toNat_ofNat]
  omega

/-- A call whose command passes its checks and that `wait` sees complete with R = `r` and RESULT = `f`. -/
theorem State.Inv.call_of_completed {s : State} (hs : s.Inv) (hp : s.phase = .idle) {i : Instr} (hi : i ≠ .nop)
    {v : OpReg → Nat} (hv : ∀ x ∈ operandsRead i, v x < 2 ^ s.params.opw) {before during after rest : Traffic}
    (hb : quietTraffic ((operandsRead i).length * s.params.maxw + 2) before)
    (ha : quietTraffic (1 + hostLen (largestOperand i v)) after) {loaded : State}
    (hl : loaded = loadedFor s i v (hostLen (largestOperand i v))) (hc : checksOf i loaded = .none) {w : Word} {r : Nat}
    {f : Bool} {x : Response} {k : Nat} (hr : r < 2 ^ (32 * hostLen (largestOperand i v)))
    (hwait : wait s.params ((acceptedAs loaded (encode i) i).respond .written) (during ++ (after ++ rest)) =
      .done w (loaded.afterCommand i r f x k) (after ++ rest)) :
    ∃ y, call s.params i v s (before ++ during ++ after ++ rest) = .done (.ok (f, r)) (loaded.afterCommand i r f y k) rest := by
  obtain ⟨hlow, hm⟩ := (Params.wellFormed_iff s.params).1 hs.params
  obtain ⟨xs, hacc⟩ := hs.callAccesses hp i hi v hv (hostLen (largestOperand i v)) before (during ++ (after ++ rest)) hb
  rw [← hl, hc, accept_eq_acceptedAs] at hacc
  have hparams : loaded.params = s.params := hl ▸ ((hs.settled hp).loadedFor i v _).params
  have hset : (loaded.afterCommand i r f x k).Settled s.params := hparams ▸ afterCommand_settled loaded i r f x k
  obtain ⟨y, hout⟩ := hset.callOutcome_ok hm (hostLen_largestOperand_le (by omega) hv) rfl hr after rest ha
  rw [List.append_assoc, List.append_assoc]
  exact ⟨y, (call_of_done hacc hwait).trans hout⟩

/-- A call whose command fails a check: two reads of STATUS, and the block as its accept left it. -/
theorem State.Inv.call_of_failed {s : State} (hs : s.Inv) (hp : s.phase = .idle) {i : Instr} (hi : i ≠ .nop)
    {v : OpReg → Nat} (hv : ∀ x ∈ operandsRead i, v x < 2 ^ s.params.opw) {before polls : Traffic} (rest : Traffic)
    (hb : quietTraffic ((operandsRead i).length * s.params.maxw + 2) before) (hq : quietTraffic 2 polls) {loaded : State}
    (hl : loaded = loadedFor s i v (hostLen (largestOperand i v))) (hc : checksOf i loaded ≠ .none) :
    ∃ x, call s.params i v s (before ++ polls ++ rest) =
      .done .internalFault ((failedAs loaded (encode i) (checksOf i loaded)).respond x) rest := by
  obtain ⟨first, second, rfl, hfirst, hsecond⟩ := quietTraffic_add 1 1 _ hq
  obtain ⟨batch1, rfl, hq1⟩ := quietTraffic_one _ hfirst
  obtain ⟨batch2, rfl, hq2⟩ := quietTraffic_one _ hsecond
  obtain ⟨xs, hacc⟩ := hs.callAccesses hp i hi v hv (hostLen (largestOperand i v)) before ([batch1] ++ [batch2] ++ rest) hb
  rw [← hl, accept_eq_failedAs _ _ _ hc] at hacc
  have hset : (failedAs loaded (encode i) (checksOf i loaded)).Settled s.params := by
    obtain ⟨hidle, hnone, hparams⟩ := (hs.settled hp).loadedFor i v (hostLen (largestOperand i v))
    rw [hl]
    exact ⟨hidle, hnone, hparams⟩
  have hwait := (hset.respond .written).wait batch1 ([batch2] ++ rest) hq1
  have hout := fun y => (hset.respond y).callOutcome_failed (hostLen (largestOperand i v)) (failedAtAccept_of_checks hc rfl)
    batch2 rest hq2
  rw [List.append_assoc]
  exact ⟨_, (call_of_done hacc hwait).trans (hout _)⟩

/-! ### A completed R has at most LEN words -/

/-- A completion leaves a residue of N or a verdict in R. -/
theorem exec_r_of_completed {s t : State} {i : Instr} (hi : i ≠ .nop) (hp : s.phase = .running i)
    (hc : checksOf i s = .none) (h : exec i s = .next t) (hidle : t.phase = .idle) : t.r < s.n ∨ t.r < 2 := by
  have hpos : i ∈ [Instr.montmul, .rsq, .modexp, .modinv] → 0 < s.n := fun hmem => modulus_pos_of_checks s i hmem hc
  have hflag : ∀ f, flagValue f < 2 := by decide
  have eq_of_next : ∀ u, exec i s = .next u → t = u := fun u hu => by
    rw [hu] at h
    injection h with h
    exact h.symm
  cases i with
  | nop => exact absurd rfl hi
  | montmul => exact .inl (eq_of_next _ (exec_montmul_of_running s _ hp) ▸ montProduct_lt _ _ _ _ (hpos (by decide)))
  | rsq => exact .inl (eq_of_next _ (exec_rsq_of_running s _ hp) ▸ Nat.mod_lt _ (hpos (by decide)))
  | modexp => exact .inl (eq_of_next _ (exec_modexp_of_running s _ hp) ▸ powMod_lt _ _ _ (hpos (by decide)))
  | mrround => exact .inr (eq_of_next _ (exec_mrround_of_running s _ hp) ▸ hflag _)
  | modinv => exact .inl (eq_of_next _ (exec_modinv_of_running s _ hp) ▸ completeInverse_r_lt s _ (hpos (by decide)))
  | mrtest =>
    obtain rfl := eq_of_next _ (exec_mrtest_of_running s _ hp)
    have hbusy : ∀ u : State, u.phase = s.phase → u.phase ≠ .idle := fun u hu => by rw [hu, hp]; nofun
    obtain ⟨f, he⟩ | ⟨-, -, ⟨-, he⟩ | ⟨-, he⟩ | ⟨a, -, -, he⟩⟩ := mrtestEngine_cases s <;> rw [he] at hidle ⊢
    · exact .inr (hflag f)
    · exact absurd hidle (hbusy _ rfl)
    · exact absurd hidle (hbusy _ rfl)
    · exact absurd hidle (hbusy _ rfl)

/-- Every command but NOP checks LEN and the width of its operands first (40_command_lifecycle.md R62). -/
theorem checksOf_eq_len_width (s : State) {i : Instr} (hi : i ≠ .nop) :
    ∃ checks, checksOf i s = firstFailure ((s.lenIllegal, .len) :: (s.tooWide (operandsRead i), .width) :: checks) := by
  cases i with
  | nop => exact absurd rfl hi
  | _ => exact ⟨_, rfl⟩

theorem N_mem_operandsRead {i : Instr} (hi : i ≠ .nop) : .N ∈ operandsRead i := by
  cases i with
  | nop => exact absurd rfl hi
  | _ => decide

/-- What passed checks say of LEN and N. -/
theorem len_of_checks {s : State} {i : Instr} (hi : i ≠ .nop) (h : checksOf i s = .none) :
    0 < s.len.toNat ∧ s.n < 2 ^ (32 * s.len.toNat) := by
  obtain ⟨checks, hchecks⟩ := checksOf_eq_len_width s hi
  rw [hchecks, firstFailure_cons, firstFailure_cons] at h
  split_ifs at h with hlen hwidth
  rw [lenIllegal_iff] at hlen
  rw [tooWide_iff] at hwidth
  exact ⟨by omega, Nat.lt_of_not_le fun hle => hwidth ⟨.N, N_mem_operandsRead hi, hle⟩⟩

theorem exec_r_lt_len {s t : State} {i : Instr} (hi : i ≠ .nop) (hp : s.phase = .running i) (hc : checksOf i s = .none)
    (h : exec i s = .next t) (hidle : t.phase = .idle) : t.r < 2 ^ (32 * s.len.toNat) := by
  obtain ⟨hpos, hn⟩ := len_of_checks hi hc
  obtain hr | hr := exec_r_of_completed hi hp hc h hidle
  · exact hr.trans hn
  · exact hr.trans_le (Nat.le_self_pow (by omega) 2)

/-- Settles O55: with passed checks the command completes in one engine step, which `wait` sees; with a failed one `wait` reads
STATUS once and the host once more. -/
theorem callOnTheBus : Obligations.CallOnTheBus := by
  unfold Obligations.CallOnTheBus
  intro s i v before rest hs hp hi hv len loaded hb
  obtain ⟨hlow, hm⟩ := (Params.wellFormed_iff s.params).1 hs.params
  have hset := (hs.settled hp).loadedFor i v len
  constructor
  · intro hc hdraw during after hd ha
    obtain ⟨r, f, hcompletes⟩ := exists_completes loaded i hi hdraw
    have hexec : exec i (acceptedAs loaded (encode i) i) = .next ((acceptedAs loaded (encode i) i).complete r f) :=
      hcompletes _ {} rfl
    have hr := exec_r_lt_len hi rfl ((State.SameInputs.checksOf_eq (s := loaded) {} i).trans hc) hexec rfl
    have hlen : loaded.len.toNat = len :=
      loadedFor_len s i v ((hostLen_largestOperand_le (by omega) hv).trans hm)
    obtain ⟨k, hwait⟩ := wait_of_completes ((acceptedAs loaded (encode i) i).respond .written) i r f during (after ++ rest)
      rfl hset.noRequest (hcompletes.of_sameInputs {}) hd
    obtain ⟨x, hcall⟩ := hs.call_of_completed hp hi hv hb ha rfl hc (hlen ▸ hr) (hset.params ▸ hwait)
    exact ⟨_, x, k, hexec, hcall⟩
  · intro hc polls hq
    exact hs.call_of_failed hp hi hv rest hb hq rfl hc

/-! ### A call of MODEXP (42_modexp.md R73) -/

theorem State.ModulusOk.modexpChecks_pass {s : State} (h : s.ModulusOk) (ha : s.a < 2 ^ (32 * s.len.toNat))
    (he : s.e < 2 ^ (32 * s.len.toNat)) : checksOf .modexp s = .none := by
  have hwidth : s.tooWide [.A, .E, .N] = false := tooWide_of_lt s _ (by simpa using ⟨ha, he, h.fits⟩)
  exact firstFailure_of_pass _ (by simp [h.lenLegal, hwidth, h.nonzero, h.notEven])

/-- Settles O42: the call of MODEXP is a call whose checks pass, as LEN is that of the largest operand. -/
theorem callModexpOnTheBus : Obligations.CallModexpOnTheBus := by
  unfold Obligations.CallModexpOnTheBus
  intro s v before during after rest hs hp len hlen hodd hb hd ha
  obtain ⟨hlow, hm⟩ := (Params.wellFormed_iff s.params).1 hs.params
  have hlargest : largestOperand .modexp v = max (v .A) (max (v .E) (v .N)) := by
    simp [largestOperand, operandsRead, max_assoc]
  have hmax : max (v .A) (max (v .E) (v .N)) < 2 ^ (32 * len) := lt_two_pow_hostLen _
  obtain ⟨hA, hE, hN⟩ : v .A < 2 ^ (32 * len) ∧ v .E < 2 ^ (32 * len) ∧ v .N < 2 ^ (32 * len) := by
    simpa only [max_lt_iff] using hmax
  have hfit : ∀ x ∈ operandsRead .modexp, v x < 2 ^ s.params.opw := by
    have hopw : 2 ^ (32 * len) ≤ 2 ^ s.params.opw := Nat.pow_le_pow_right (by decide) (Nat.mul_le_mul_left 32 hlen)
    simpa [operandsRead] using ⟨hA.trans_le hopw, hE.trans_le hopw, hN.trans_le hopw⟩
  have hl : (loadedFor s .modexp v len).len.toNat = len := loadedFor_len s .modexp v (hlen.trans hm)
  have hmod : (loadedFor s .modexp v len).ModulusOk :=
    ⟨by rw [hl]; exact hostLen_pos _, by rw [hl]; exact hlen, hodd, by rw [hl]; exact hN⟩
  have hchecks := hmod.modexpChecks_pass (by rw [hl]; exact hA) (by rw [hl]; exact hE)
  have hcall := (callOnTheBus s .modexp v before rest hs hp (by decide) hfit hb).1
  rw [hlargest] at hcall
  obtain ⟨t, x, k, hexec, hrun⟩ := hcall hchecks (.inl (by decide)) during after hd ha
  rw [exec_modexp_eq_completedWith _ rfl (show 0 < v .N by omega)] at hexec
  injection hexec with hexec
  subst hexec
  exact ⟨_, hrun, rfl, rfl, rfl, rfl, rfl, hl, rfl, rfl, afterCommand_statusWord (loadedFor s .modexp v len) .modexp _ x k⟩

end Sys2Proof.Machine

/-! SUPPORT. Proofs about a call of MRTEST that draws its bases (43_primality.md R78, R79, 48_host_procedures.md R86, R88): what a
drawing test still expects, and how `wait` reads STATUS through its rounds. -/

namespace Sys2Proof.Machine

/-! ### The rounds still to run (43_primality.md R79) -/

/-- Passed rounds count down to the rounds that are left. -/
theorem drawnRounds_of_passed (n k : Nat) (passed rest : List Nat) (hrange : ∀ a ∈ passed, 2 ≤ a ∧ a + 2 ≤ n)
    (hpass : ∀ a ∈ passed, millerRabin n a = true) :
    drawnRounds n (passed.length + k) (passed ++ rest) = drawnRounds n k rest := by
  induction passed with
  | nil => rw [List.length_nil, Nat.zero_add, List.nil_append]
  | cons a passed ih =>
    obtain ⟨ha, hrange⟩ := List.forall_mem_cons.1 hrange
    obtain ⟨hp, hpass⟩ := List.forall_mem_cons.1 hpass
    rw [List.length_cons, Nat.add_right_comm, List.cons_append, drawnRounds, if_pos ha, if_pos hp, ih hrange hpass]

theorem drawnRounds_of_failed (n k : Nat) {a : Nat} (ha : 2 ≤ a ∧ a + 2 ≤ n) (hfail : millerRabin n a = false) :
    drawnRounds n (k + 1) [a] = some (false, []) := by
  rw [drawnRounds, if_pos ha, hfail, if_neg Bool.false_ne_true]

/-- What the entropy port and the engine still do when the bases `bases` are still to be used: ask, answer, run the round. The
first base is already in the port where it holds an answer. -/
inductive EntropyPort.Due : EntropyPort → List Nat → List Event → Prop
  | unasked (bases : List Nat) : Due .none bases (drawEvents bases)
  | asked (bases : List Nat) : Due .requested bases (bases.flatMap drawOf)
  | answered (a : Nat) (bases : List Nat) : Due (.answered a) (a :: bases) (.engine :: bases.flatMap drawOf)

/-- A drawing MRTEST that the events `evs` bring to the verdict `f`, on the bases `bases` and on no more of them. -/
structure State.Decides (s : State) (bases : List Nat) (evs : List Event) (f : Bool) : Prop where
  running : s.phase = .running .mrtest
  drawing : s.basesrc = true
  candidate : trivialVerdict s.n = none
  due : s.entropy.Due bases evs
  inRange : ∀ a ∈ bases, 2 ≤ a ∧ a + 2 ≤ s.n
  roundLeft : s.round < s.rounds.toNat
  verdict : drawnRounds s.n (s.rounds.toNat - s.round) bases = some (f, [])

/-- `t` is `s` but for what a drawing test changes before its completion, and the port's answer. -/
def State.InRoundOf (t s : State) : Prop :=
  ∃ r k round e x, t = { s with r := r, freeCount := k, round := round, entropy := e, response := x }

theorem State.InRoundOf.trans {s t u : State} (hut : u.InRoundOf t) (hts : t.InRoundOf s) : u.InRoundOf s := by
  obtain ⟨_, _, _, _, _, rfl⟩ := hts
  obtain ⟨r, k, round, e, x, rfl⟩ := hut
  exact ⟨r, k, round, e, x, rfl⟩

theorem State.InRoundOf.params {s t : State} (h : t.InRoundOf s) : t.params = s.params := by
  obtain ⟨_, _, _, _, _, rfl⟩ := h
  rfl

/-- `u` is `s` after the completion with the verdict `f`, up to the port's answer and the free-value counter. -/
def State.VerdictOf (u s : State) (f : Bool) : Prop :=
  ∃ k x, u = { s.completeVerdict f with freeCount := k, response := x }

/-- The completion writes whatever the rounds changed. -/
theorem State.VerdictOf.of_inRound {s t u : State} {f : Bool} (hu : u.VerdictOf t f) (ht : t.InRoundOf s) :
    u.VerdictOf s f := by
  obtain ⟨_, _, _, _, _, rfl⟩ := ht
  obtain ⟨k, x, rfl⟩ := hu
  exact ⟨k, x, rfl⟩

theorem State.VerdictOf.respond {s u : State} {f : Bool} (h : u.VerdictOf s f) (x : Response) :
    (u.respond x).VerdictOf s f := by
  obtain ⟨k, _, rfl⟩ := h
  exact ⟨k, x, rfl⟩

theorem State.VerdictOf.settled {s u : State} {f : Bool} (h : u.VerdictOf s f) : u.Settled s.params := by
  obtain ⟨_, _, rfl⟩ := h
  exact ⟨rfl, rfl, rfl⟩

theorem State.Decides.respond {s : State} {bases : List Nat} {evs : List Event} {f : Bool} (h : s.Decides bases evs f)
    (x : Response) : (s.respond x).Decides bases evs f := by
  obtain ⟨hrunning, hdrawing, hcandidate, hdue, hrange, hleft, hverdict⟩ := h
  exact ⟨hrunning, hdrawing, hcandidate, hdue, hrange, hleft, hverdict⟩

/-- There is a base to use, as a round is left. -/
theorem State.Decides.bases_ne_nil {s : State} {bases : List Nat} {evs : List Event} {f : Bool} (h : s.Decides bases evs f) :
    bases ≠ [] := by
  rintro rfl
  obtain ⟨k, hk⟩ := Nat.exists_eq_add_of_lt h.roundLeft
  have hverdict := h.verdict
  rw [hk, Nat.add_assoc, Nat.add_sub_cancel_left, drawnRounds] at hverdict
  cases hverdict

theorem State.Decides.events_ne_nil {s : State} {bases : List Nat} {f : Bool} : ¬ s.Decides bases [] f := by
  intro h
  have hbases := h.bases_ne_nil
  have hdue := h.due
  generalize s.entropy = e at hdue
  generalize hevs : ([] : List Event) = evs at hdue
  cases hdue with
  | unasked => cases hevs
  | answered => cases hevs
  | asked =>
    cases bases with
    | nil => exact hbases rfl
    | cons a bases => cases hevs

/-! ### The events of a drawing test -/

/-- An internal step changes R at most. -/
theorem State.Decides.handle_internal {s : State} {bases : List Nat} {evs : List Event} {f : Bool}
    (h : s.Decides bases evs f) :
    ∃ t, s.handle .engineInternal = .next t ∧ t.InRoundOf s ∧ t.Decides bases evs f := by
  obtain ⟨hrunning, hdrawing, hcandidate, hdue, hrange, hleft, hverdict⟩ := h
  refine ⟨_, rfl, ?_⟩
  obtain he | he := internalStep_cases s <;> rw [he] <;>
    exact ⟨⟨_, _, _, _, _, rfl⟩, hrunning, hdrawing, hcandidate, hdue, hrange, hleft, hverdict⟩

/-- The round on an answered base: it ends the test with the verdict and is the last event due, or the test goes on. -/
theorem State.Decides.handle_round {s : State} {a : Nat} {bases : List Nat} {evs : List Event} {f : Bool}
    (h : s.Decides (a :: bases) evs f) (he : s.entropy = .answered a) :
    (bases = [] ∧ s.handle .engine = .next (s.completeVerdict f)) ∨
      ∃ t, s.handle .engine = .next t ∧ t.InRoundOf s ∧ t.Decides bases (bases.flatMap drawOf) f := by
  obtain ⟨hrunning, hdrawing, hcandidate, -, hrange, hleft, hverdict⟩ := h
  obtain ⟨ha, hrange⟩ := List.forall_mem_cons.1 hrange
  have hstep : s.handle .engine = .next (s.drawnRound a) :=
    (engineStep_of_running s _ hrunning).trans (exec_mrtest_of_answered hrunning hdrawing hcandidate he)
  obtain ⟨k, hk⟩ := Nat.exists_eq_add_of_lt hleft
  rw [hk, Nat.add_assoc, Nat.add_sub_cancel_left, drawnRounds, if_pos ha] at hverdict
  cases hpass : millerRabin s.n a with
  | false =>
    rw [hpass, if_neg Bool.false_ne_true] at hverdict
    cases hverdict
    exact .inl ⟨rfl, hstep.trans (congrArg _ (drawnRound_of_fail hpass))⟩
  | true =>
    rw [hpass, if_pos rfl] at hverdict
    cases k with
    | zero =>
      rw [drawnRounds] at hverdict
      cases hverdict
      exact .inl ⟨rfl, hstep.trans (congrArg _ (drawnRound_of_last hpass (by omega)))⟩
    | succ k =>
      have hnext : s.round + 1 < s.rounds.toNat := by omega
      have hrest : s.rounds.toNat - (s.round + 1) = k + 1 := by omega
      exact .inr ⟨_, hstep.trans (congrArg _ (drawnRound_of_pass hpass hnext)), ⟨_, _, _, _, _, rfl⟩, hrunning, hdrawing,
        hcandidate, .asked bases, hrange, hnext, (congrArg (drawnRounds s.n · bases) hrest).trans hverdict⟩

/-- The next event due: the last one completes the test, and any other leaves it running. -/
theorem State.Decides.handle_due {s : State} {bases : List Nat} {ev : Event} {evs : List Event} {f : Bool}
    (h : s.Decides bases (ev :: evs) f) :
    (evs = [] ∧ s.handle ev = .next (s.completeVerdict f)) ∨
      ∃ t left, s.handle ev = .next t ∧ t.InRoundOf s ∧ t.Decides left evs f := by
  have hall := h
  obtain ⟨hrunning, hdrawing, hcandidate, hdue, hrange, hleft, hverdict⟩ := h
  generalize he : s.entropy = e at hdue
  generalize hevs : ev :: evs = due at hdue
  cases hdue with
  | unasked =>
    injection hevs with hev hevs
    subst hev hevs
    exact .inr ⟨_, bases, (engineStep_of_running s _ hrunning).trans (exec_mrtest_of_noRequest hrunning hdrawing hcandidate he),
      ⟨_, _, _, _, _, rfl⟩, hrunning, hdrawing, hcandidate, .asked bases, hrange, hleft, hverdict⟩
  | asked =>
    cases bases with
    | nil => cases hevs
    | cons a bases =>
      injection hevs with hev hevs
      subst hev hevs
      obtain ⟨ha, -⟩ := List.forall_mem_cons.1 hrange
      have hoffer : s.handle (.entropy a) = .next { s with entropy := .answered a } := by
        rw [State.handle, State.offerEntropy, State.waiting, he, decide_eq_true rfl, State.op_N, decide_eq_true ha]
        rfl
      exact .inr ⟨_, a :: bases, hoffer, ⟨_, _, _, _, _, rfl⟩, hrunning, hdrawing, hcandidate, .answered a bases, hrange, hleft,
        hverdict⟩
  | answered a bases =>
    injection hevs with hev hevs
    subst hev hevs
    obtain ⟨rfl, hdone⟩ | ⟨t, ht, hin, hdecides⟩ := hall.handle_round he
    · exact .inl ⟨rfl, hdone⟩
    · exact .inr ⟨t, bases, ht, hin, hdecides⟩

/-! ### `wait` of a drawing test (30_encoding.md R58) -/

/-- The events of a batch but the engine's internal steps. -/
def progress (batch : List Event) : List Event := batch.filter fun ev => decide (ev ≠ .engineInternal)

@[simp] theorem progress_append (l m : List Event) : progress (l ++ m) = progress l ++ progress m := List.filter_append ..

theorem progress_internal (batch : List Event) : progress (.engineInternal :: batch) = progress batch := rfl

theorem progress_cons {ev : Event} (h : ev ≠ .engineInternal) (batch : List Event) :
    progress (ev :: batch) = ev :: progress batch := List.filter_cons_of_pos (decide_eq_true h)

theorem engine_mem_progress {batch : List Event} (h : Event.engine ∈ batch) : Event.engine ∈ progress batch :=
  List.mem_filter.2 ⟨h, by decide⟩

theorem quiet_of_progress_eq_nil {batch : List Event} (h : progress batch = []) : quiet batch := by
  intro ev hev
  obtain rfl : ev = .engineInternal := by simpa using List.filter_eq_nil_iff.1 h ev hev
  exact ⟨nofun, nofun⟩

/-- A batch before the last events due: the test is still running. -/
theorem State.Decides.runEvents_poll {s : State} {bases : List Nat} {f : Bool} (batch : List Event) {left : List Event}
    (h : s.Decides bases (progress batch ++ left) f) (hleft : left ≠ []) :
    ∃ t bases', s.runEvents batch = .next t ∧ t.InRoundOf s ∧ t.Decides bases' left f := by
  induction batch generalizing s bases with
  | nil => exact ⟨s, bases, rfl, ⟨_, _, _, _, _, rfl⟩, h⟩
  | cons ev batch ih =>
    obtain ⟨t, bases', ht, hin, hdecides⟩ :
        ∃ t bases', s.handle ev = .next t ∧ t.InRoundOf s ∧ t.Decides bases' (progress batch ++ left) f := by
      by_cases hev : ev = .engineInternal
      · subst hev
        rw [progress_internal] at h
        obtain ⟨t, ht⟩ := h.handle_internal
        exact ⟨t, bases, ht⟩
      · rw [progress_cons hev, List.cons_append] at h
        exact h.handle_due.resolve_left fun hlast => hleft (List.append_eq_nil_iff.1 hlast.1).2
    obtain ⟨u, bases'', hu, hin', hdecides'⟩ := ih hdecides
    exact ⟨u, bases'', (runEvents_cons _ _ _ _ ht).trans hu, hin'.trans hin, hdecides'⟩

/-- The batch with the last event due: the test has completed. -/
theorem State.Decides.runEvents_last {s : State} {bases : List Nat} {f : Bool} (batch : List Event)
    (h : s.Decides bases (progress batch) f) : ∃ u, s.runEvents batch = .next u ∧ u.VerdictOf s f := by
  induction batch generalizing s bases with
  | nil => exact absurd h State.Decides.events_ne_nil
  | cons ev batch ih =>
    obtain ⟨u, hu, hverdict, hlast⟩ | ⟨t, bases', ht, hin, hdecides⟩ :
        (∃ u, s.handle ev = .next u ∧ u.VerdictOf s f ∧ progress batch = []) ∨
          ∃ t bases', s.handle ev = .next t ∧ t.InRoundOf s ∧ t.Decides bases' (progress batch) f := by
      by_cases hev : ev = .engineInternal
      · subst hev
        rw [progress_internal] at h
        obtain ⟨t, ht⟩ := h.handle_internal
        exact .inr ⟨t, bases, ht⟩
      · rw [progress_cons hev] at h
        exact h.handle_due.imp_left fun ⟨hlast, hdone⟩ => ⟨_, hdone, ⟨_, _, rfl⟩, hlast⟩
    · exact ⟨u, (runEvents_cons _ _ _ _ hu).trans (hverdict.settled.runEvents_quiet batch (quiet_of_progress_eq_nil hlast)),
        hverdict⟩
    · obtain ⟨u, hu, hverdict⟩ := ih hdecides
      exact ⟨u, (runEvents_cons _ _ _ _ ht).trans hu, hverdict.of_inRound hin⟩

/-- `wait` reads STATUS with BUSY = 1 as long as the engine's last step is still due. -/
theorem State.Decides.wait {s : State} {bases : List Nat} {f : Bool} (polls : Traffic) (last : List Event) (rest : Traffic)
    (h : s.Decides bases (progress (polls ++ [last]).flatten) f) (hlast : Event.engine ∈ last) :
    ∃ u, Machine.wait s.params s (polls ++ [last] ++ rest) = .done u.statusWord u rest ∧ u.VerdictOf s f := by
  induction polls generalizing s bases with
  | nil =>
    rw [List.nil_append, List.flatten_singleton] at h
    obtain ⟨u, hrun, hverdict⟩ := h.runEvents_last last
    have hidle := u.busy_of_idle hverdict.settled.idle
    exact ⟨u.respond (.data u.statusWord), wait_of_not_busy s.params s u last rest hverdict.settled.params hrun hidle,
      hverdict.respond _⟩
  | cons batch polls ih =>
    rw [List.cons_append, List.flatten_cons, progress_append] at h
    have hleft : progress (polls ++ [last]).flatten ≠ [] :=
      List.ne_nil_of_mem (engine_mem_progress (List.mem_flatten.2 ⟨last, by simp, hlast⟩))
    obtain ⟨t, bases', hrun, hin, hdecides⟩ := h.runEvents_poll batch hleft
    have hbusy := wait_of_busy s.params s t batch (polls ++ [last] ++ rest) hin.params hrun
      (t.busy_of_running _ hdecides.running)
    obtain ⟨u, hwait, hverdict⟩ := ih (hdecides.respond (.data t.statusWord))
    rw [respond_params, hin.params] at hwait
    exact ⟨u, hbusy.trans hwait, hverdict.of_inRound (State.InRoundOf.trans ⟨_, _, _, _, _, rfl⟩ hin)⟩

/-! ### The call (48_host_procedures.md R86, R88) -/

/-- The bits of STATUS after a completion: DONE, and RESULT as the verdict is (10_state.md R28). -/
theorem afterCommand_statusWord_eq (s : State) (i : Instr) (r : Nat) (f : Bool) (x : Response) (k : Nat) :
    (s.afterCommand i r f x k).statusWord = if f then 0x00000006#32 else 0x00000002#32 := by
  have hfields : (s.afterCommand i r f x k).statusWord =
      0#24 ++ errCodeBits .none ++ BitVec.ofBool false ++ BitVec.ofBool f ++ BitVec.ofBool true ++ BitVec.ofBool false := rfl
  rw [hfields]
  cases f <;> decide

theorem mrtestChecks_pass {s : State} (hpos : 0 < s.len.toNat) (hlen : s.len.toNat ≤ s.params.maxw)
    (hn : s.n < 2 ^ (32 * s.len.toNat)) (hb : s.basesrc = true) (hr : 0 < s.rounds.toNat) : checksOf .mrtest s = .none := by
  have hlegal : s.lenIllegal = false := by
    rw [← Bool.not_eq_true, lenIllegal_iff]
    omega
  have hwidth : s.tooWide [.N] = false := tooWide_of_lt s _ (by simpa using hn)
  have hrounds : s.roundsIllegal = false := by
    rw [← Bool.not_eq_true, roundsIllegal_iff, hb]
    simpa using hr.ne'
  exact firstFailure_of_pass _ (by simp [hlegal, hwidth, hrounds])

/-- A call of a drawing MRTEST gives the verdict of its rounds on the bases drawn. -/
theorem State.Inv.call_mrtest {s : State} (hs : s.Inv) (hp : s.phase = .idle) (hb : s.basesrc = true)
    (hrounds : 0 < s.rounds.toNat) {v : OpReg → Nat} (hn : trivialVerdict (v .N) = none) (hv : v .N < 2 ^ s.params.opw)
    {bases : List Nat} {before polls after : Traffic} {last : List Event} (rest : Traffic)
    (hbefore : quietTraffic (s.params.maxw + 2) before) (hafter : quietTraffic (1 + hostLen (v .N)) after)
    (hevents : progress (polls ++ [last]).flatten = drawEvents bases) (hlast : Event.engine ∈ last)
    (hrange : ∀ a ∈ bases, 2 ≤ a ∧ a + 2 ≤ v .N) {f : Bool}
    (hverdict : drawnRounds (v .N) s.rounds.toNat bases = some (f, [])) :
    ∃ x k, call s.params .mrtest v s (before ++ (polls ++ [last]) ++ after ++ rest) = .done (.ok (f, flagValue f))
      ((loadedFor s .mrtest v (hostLen (v .N))).afterCommand .mrtest (flagValue f) f x k) rest := by
  obtain ⟨hlow, hm⟩ := (Params.wellFormed_iff s.params).1 hs.params
  have hlen : hostLen (v .N) ≤ s.params.maxw := (hostLen_le_iff (by omega)).2 hv
  have hlargest : largestOperand .mrtest v = v .N := Nat.zero_max ..
  have hl := loadedFor_len s .mrtest v (hlen.trans hm)
  have hchecks : checksOf .mrtest (loadedFor s .mrtest v (hostLen (v .N))) = .none :=
    mrtestChecks_pass (by rw [hl]; exact hostLen_pos _) (by rw [hl]; exact hlen) (by rw [hl]; exact lt_two_pow_hostLen _) hb
      hrounds
  have hnone := hs.noRequest hp
  have hround := hs.roundZero hnone
  have hdecides : ((acceptedAs (loadedFor s .mrtest v (hostLen (v .N))) (encode .mrtest) .mrtest).respond .written).Decides
      bases (progress (polls ++ [last]).flatten) f := by
    refine ⟨rfl, hb, hn, ?_, hrange, ?_, ?_⟩
    · rw [hevents]
      show s.entropy.Due bases (drawEvents bases)
      rw [hnone]
      exact .unasked bases
    · show s.round < s.rounds.toNat
      rwa [hround]
    · show drawnRounds (v .N) (s.rounds.toNat - s.round) bases = some (f, [])
      rwa [hround]
  obtain ⟨u, hwait, k, x, rfl⟩ := hdecides.wait polls last (after ++ rest) hlast
  have hflag : flagValue f < 2 ^ (32 * hostLen (v .N)) := by
    have hpos := hostLen_pos (v .N)
    have htwo : flagValue f < 2 := by cases f <;> decide
    exact htwo.trans_le (Nat.le_self_pow (by omega) 2)
  obtain ⟨y, hcall⟩ := hs.call_of_completed hp (by decide) (by simpa [operandsRead] using hv)
    (by simpa [operandsRead] using hbefore) (hlargest ▸ hafter) (hlargest ▸ rfl) hchecks (hlargest ▸ hflag) hwait
  exact ⟨y, k, hcall⟩

/-- Settles O56: ROUNDS passing bases count the rounds down to none, and a failing base ends them. -/
theorem callMrtestDraws : Obligations.CallMrtestDraws := by
  unfold Obligations.CallMrtestDraws
  intro s v bases before polls after rest last hs hp hb hrounds hlarge hodd hv len hbefore hafter hevents hlast hbases
  have hn : trivialVerdict (v .N) = none := (trivialVerdict_eq_none_iff (v .N)).2 ⟨hlarge, hodd⟩
  have hrange : ∀ a ∈ bases, 2 ≤ a ∧ a + 2 ≤ v .N := fun a ha => by
    obtain ⟨hlow, hhigh⟩ := hbases a ha
    omega
  have hcall := fun f => hs.call_mrtest hp hb hrounds hn hv rest hbefore hafter hevents hlast hrange (f := f)
  constructor
  · intro hlength hpass
    have hverdict := drawnRounds_of_passed (v .N) 0 bases [] hrange hpass
    rw [List.append_nil, hlength, Nat.add_zero, drawnRounds] at hverdict
    obtain ⟨x, k, hrun⟩ := hcall true hverdict
    exact ⟨_, hrun, rfl, rfl, rfl, rfl, afterCommand_statusWord_eq _ _ _ _ _ _⟩
  · intro passed failed hsplit hlength hpass hfail
    subst hsplit
    rw [List.forall_mem_append, List.forall_mem_singleton] at hrange
    rw [List.length_append, List.length_singleton] at hlength
    obtain ⟨k, hk⟩ := Nat.exists_eq_add_of_le hlength
    have hverdict := drawnRounds_of_passed (v .N) (k + 1) passed [failed] hrange.1 hpass
    rw [drawnRounds_of_failed (v .N) k hrange.2 hfail, ← Nat.add_assoc, Nat.add_right_comm, ← hk] at hverdict
    obtain ⟨x, k, hrun⟩ := hcall false hverdict
    exact ⟨_, hrun, rfl, rfl, rfl, rfl, afterCommand_statusWord_eq _ _ _ _ _ _⟩

end Sys2Proof.Machine

/-! SUPPORT. Proofs about errors, waiting and the interrupt (60_exceptions.md): every event answers a next state, what an idle block
and a waiting engine do, and which events raise and lower `irq`. -/

namespace Sys2Proof.Machine

/-! ### Every step answers (60_exceptions.md R95) -/

/-- Every event answers a next state. -/
theorem handle_next (s : State) (ev : Event) : ∃ t, s.handle ev = .next t := by
  cases ev with
  | host acc => exact handle_host_next s acc
  | engine =>
    cases hp : s.phase with
    | idle => exact ⟨s, by rw [State.handle, State.engineStep, hp]⟩
    | running cur =>
      obtain ⟨t, ht⟩ := exec_next s cur
      exact ⟨t, (engineStep_of_running s cur hp).trans ht⟩
  | engineInternal | entropy | hardwareReset => exact ⟨_, rfl⟩

/-- Settles O5: a step is the event at the head of the schedule, or the engine's, and every event answers. -/
theorem everyStepGoesOn : Obligations.EveryStepGoesOn := by
  unfold Obligations.EveryStepGoesOn
  intro s
  cases hl : s.schedule with
  | nil =>
    rw [step_of_nil s hl]
    exact handle_next s .engine
  | cons ev rest =>
    rw [step_of_cons s ev rest hl]
    exact handle_next _ ev

/-! ### Waiting (60_exceptions.md R100, R107) -/

/-- Settles O17: by the invariant a block with a request runs a drawing MRTEST, and no such event moves it. -/
theorem starvedEngineTakesNoStep : Obligations.StarvedEngineTakesNoStep := by
  unfold Obligations.StarvedEngineTakesNoStep
  intro s events hs hreq hevents
  have hstarved := hs.starved hreq
  exact ⟨hstarved.runEvents events hevents, s.busy_of_running _ hstarved.running⟩

/-- Settles O4: an idle block without a request is settled, and an empty schedule is an engine event. -/
theorem idleBlockWaits : Obligations.IdleBlockWaits := by
  unfold Obligations.IdleBlockWaits
  intro s hp hnone
  have hsettled : s.Settled s.params := ⟨hp, hnone, rfl⟩
  have hengine : s.handle .engine = .next s := hsettled.handle_quiet .engine (by simp) (by simp)
  exact ⟨fun hl => (step_of_nil s hl).trans hengine, hengine, hsettled.handle_quiet .engineInternal (by simp) (by simp),
    fun v => hsettled.handle_quiet (.entropy v) (by simp) (by simp)⟩

/-! ### What each operation makes of `irq` (10_state.md R34, 60_exceptions.md R97) -/

theorem State.irq_of_done {s : State} (h : s.done = true) : s.irq = s.irqen := by rw [State.irq, h, Bool.and_true]

theorem State.irq_of_not_done {s : State} (h : s.done = false) : s.irq = false := by rw [State.irq, h, Bool.and_false]

/-- A CTRL write: a soft reset clears IRQEN and DONE, and any other write sets IRQEN to bit 0 and leaves DONE. -/
theorem writeCtrl_irq (s : State) (v : Word) : (s.writeCtrl v).irq = (!v.getLsbD 31 && (v.getLsbD 0 && s.done)) := by
  unfold State.writeCtrl
  cases v.getLsbD 31 <;> rfl

theorem writeCtrl_done (s : State) (v : Word) (h : v.getLsbD 31 = false) : (s.writeCtrl v).done = s.done := by
  rw [State.writeCtrl, h]
  rfl

theorem writeStatus_irq (s : State) (v : Word) : (s.writeStatus v).irq = (s.irq && !v.getLsbD 1) :=
  (Bool.and_assoc ..).symm

/-- A write of LEN, ROUNDS or an operand leaves `irq`, dropped or not (20_memory.md R43). -/
theorem droppedWhileBusy_irq (s t : State) (ht : t.irq = s.irq) : (if s.busy then s.setErr .wbusy else t).irq = s.irq := by
  split
  · rfl
  · exact ht

/-- An accept that starts no command ends with DONE = 1; the other accepts clear it (40_command_lifecycle.md R61). -/
theorem exec_irq_of_idle (i : Instr) (s t : State) (hp : s.phase = .idle) (h : exec i s = .next t) :
    t.irq = if i ≠ .nop ∧ checksOf i s = .none then false else s.irqen := by
  have of_next : ∀ u, exec i s = .next u → t = u := fun u hu => Host.Outcome.next.inj (h.symm.trans hu)
  by_cases hi : i = .nop
  · subst hi
    rw [of_next _ (exec_nop_eq_afterNop s hp), if_neg (by simp)]
    exact State.irq_of_done rfl
  · by_cases hc : checksOf i s = .none
    · rw [of_next _ (exec_eq_acceptedAs s i hi hp hc), if_pos ⟨hi, hc⟩]
      exact State.irq_of_not_done rfl
    · rw [of_next _ (exec_eq_failedAs s i hi hp hc), if_neg (by simp [hc])]
      exact State.irq_of_done rfl

/-- An engine step completes with DONE = 1, or the command still runs and the flags are as before (40_command_lifecycle.md R65). -/
theorem exec_irq_of_running (i c : Instr) (s t : State) (hp : s.phase = .running c) (h : exec i s = .next t) :
    (t.phase = .idle ∧ t.irq = s.irqen) ∨ (t.phase = .running c ∧ t.irq = s.irq) := by
  obtain ⟨hidle, -⟩ | ⟨hidle, -⟩ | ⟨-, -, ⟨-, rfl⟩ | ⟨-, v, f, rfl⟩ | ⟨-, rfl⟩⟩ := exec_cases s i t h
  · rw [hp] at hidle
    cases hidle
  · rw [hp] at hidle
    cases hidle
  · exact .inl ⟨rfl, State.irq_of_done rfl⟩
  · exact .inl ⟨rfl, State.irq_of_done rfl⟩
  · obtain ⟨f, he⟩ | ⟨-, -, ⟨-, he⟩ | ⟨-, he⟩ | ⟨a, -, -, he⟩⟩ := mrtestEngine_cases s <;> rw [he]
    · exact .inl ⟨rfl, State.irq_of_done rfl⟩
    · exact .inr ⟨hp, rfl⟩
    · exact .inr ⟨hp, rfl⟩
    · exact .inr ⟨hp, rfl⟩

/-! ### What each event makes of `irq` (60_exceptions.md R97) -/

/-- The interrupt output of `t` after the event, by the events of `s` that may change it. -/
inductive State.IrqAfter (s t : State) : Event → Prop
  | unchanged {ev : Event} (h : t.irq = s.irq) : s.IrqAfter t ev
  | control (v : Word) (h : t.irq = (!v.getLsbD 31 && (v.getLsbD 0 && s.done))) : s.IrqAfter t (wr s.params 0x0008 v)
  | status (v : Word) (h : t.irq = (s.irq && !v.getLsbD 1)) : s.IrqAfter t (wr s.params 0x0010 v)
  | started (i : Instr) (hp : s.phase = .idle) (hi : i ≠ .nop) (hc : checksOf i s = .none) (h : t.irq = false) :
    s.IrqAfter t (cmd s.params i)
  | ended (w : Word) (hp : s.phase = .idle) (h : t.irq = s.irqen) : s.IrqAfter t (wr s.params 0x000C w)
  | completed (hp : s.phase ≠ .idle) (hidle : t.phase = .idle) (h : t.irq = s.irqen) : s.IrqAfter t .engine
  | reset (h : t.irq = false) : s.IrqAfter t .hardwareReset

theorem host_eq_wr {acc : Access} {p : Params} {off : Nat} {v : Word} (hw : acc.width = .w32) (ha : acc.addr = p.base + off)
    (hk : acc.kind = .write v) : Event.host acc = wr p off v := by
  cases acc
  subst hw ha hk
  rfl

/-- A CMD write: a refusal leaves `irq`, and an accept starts its command or ends with DONE = 1 (40_command_lifecycle.md R61). -/
theorem presentCommand_irqAfter (s t : State) (w : Word) (h : (s.respond .written).presentCommand w = .next t) :
    s.IrqAfter t (wr s.params 0x000C w) := by
  obtain ⟨-, -, rfl⟩ | ⟨hp, i, hd, hexec⟩ | ⟨hp, rfl⟩ := presentCommand_cases _ w t h
  · exact .unchanged rfl
  · have hirq := exec_irq_of_idle i _ t hp hexec
    have hchecks : checksOf i (s.respond .written) = checksOf i s := State.SameInputs.checksOf_eq {} i
    rw [hchecks] at hirq
    split at hirq
    · rename_i hstart
      obtain ⟨hi, hc⟩ := hstart
      obtain rfl := (decode_eq_ok_iff w i).1 hd
      exact .started i hp hi hc hirq
    · exact .ended w hp hirq
  · exact .ended w hp (State.irq_of_done rfl)

theorem handle_host_irqAfter (s t : State) (acc : Access) (h : s.handle (.host acc) = .next t) : s.IrqAfter t (.host acc) := by
  obtain ⟨x, rfl⟩ | rfl | ⟨v, hw, ha, hk, rfl⟩ | ⟨w, hev, hcmd⟩ | ⟨v, hev, rfl⟩ | ⟨v, rfl⟩ | ⟨v, rfl⟩ |
    ⟨x, j, v, -, -, rfl⟩ := handle_host_cases s acc t h
  · exact .unchanged rfl
  · exact .unchanged rfl
  · exact host_eq_wr hw ha hk ▸ .control v (writeCtrl_irq _ v)
  · exact hev ▸ presentCommand_irqAfter s t w hcmd
  · exact hev ▸ .status v (writeStatus_irq _ v)
  · exact .unchanged (droppedWhileBusy_irq _ _ rfl)
  · exact .unchanged (droppedWhileBusy_irq _ _ rfl)
  · exact .unchanged (droppedWhileBusy_irq _ _ (by simp [State.irq]))

theorem handle_irqAfter (s t : State) (ev : Event) (h : s.handle ev = .next t) : s.IrqAfter t ev := by
  cases ev with
  | host acc => exact handle_host_irqAfter s t acc h
  | engine =>
    obtain ⟨-, rfl⟩ | ⟨cur, hp, hexec⟩ := engineStep_cases s t h
    · exact .unchanged rfl
    · obtain ⟨hidle, hirq⟩ | ⟨-, hirq⟩ := exec_irq_of_running cur cur s t hp hexec
      · exact .completed (by simp [hp]) hidle hirq
      · exact .unchanged hirq
  | engineInternal =>
    injection h with h
    subst h
    obtain he | he := internalStep_cases s <;> rw [he] <;> exact .unchanged rfl
  | entropy v =>
    injection h with h
    subst h
    obtain ⟨-, -, -, he⟩ | he := offerEntropy_cases s v <;> rw [he] <;> exact .unchanged rfl
  | hardwareReset =>
    injection h with h
    subst h
    exact .reset rfl

/-- The events that raise `irq`: IRQEN <- 1 while DONE = 1, an accept that ends, and a completion. -/
theorem State.IrqAfter.raised {s t : State} {ev : Event} (h : s.IrqAfter t ev) (hlow : s.irq = false) (hhigh : t.irq = true) :
    (s.done = true ∧ ∃ v : Word, v.getLsbD 31 = false ∧ v.getLsbD 0 = true ∧ ev = wr s.params 0x0008 v) ∨
      (s.irqen = true ∧ s.phase = .idle ∧ ∃ w, ev = wr s.params 0x000C w) ∨
      (s.irqen = true ∧ s.phase ≠ .idle ∧ t.phase = .idle ∧ ev = .engine) := by
  cases h with
  | unchanged h | status _ h => simp [hlow, hhigh] at h
  | started _ _ _ _ h | reset h => simp [hhigh] at h
  | control v h =>
    obtain ⟨hsrst, hen, hdone⟩ : v.getLsbD 31 = false ∧ v.getLsbD 0 = true ∧ s.done = true := by
      simpa only [Bool.and_eq_true, Bool.not_eq_true'] using h.symm.trans hhigh
    exact .inl ⟨hdone, v, hsrst, hen, rfl⟩
  | ended w hp h => exact .inr (.inl ⟨h.symm.trans hhigh, hp, w, rfl⟩)
  | completed hp hidle h => exact .inr (.inr ⟨h.symm.trans hhigh, hp, hidle, rfl⟩)

/-- The events that lower `irq`: W1C of DONE, a soft reset or IRQEN <- 0, an accept that starts, and a hardware reset. -/
theorem State.IrqAfter.lowered {s t : State} {ev : Event} (h : s.IrqAfter t ev) (hhigh : s.irq = true) (hlow : t.irq = false) :
    (∃ v : Word, v.getLsbD 1 = true ∧ ev = wr s.params 0x0010 v) ∨
      (∃ v : Word, (v.getLsbD 31 = true ∨ v.getLsbD 0 = false) ∧ ev = wr s.params 0x0008 v) ∨
      (s.phase = .idle ∧ ∃ i, i ≠ .nop ∧ checksOf i s = .none ∧ ev = cmd s.params i) ∨
      ev = .hardwareReset := by
  obtain ⟨hirqen, hdone⟩ := (Bool.and_eq_true _ _).mp hhigh
  cases h with
  | unchanged h => simp [hlow, hhigh] at h
  | control v h =>
    rw [hdone, Bool.and_true] at h
    exact .inr (.inl ⟨v, by simpa only [Bool.and_eq_false_iff, Bool.not_eq_false'] using h.symm.trans hlow, rfl⟩)
  | status v h => exact .inl ⟨v, by simpa [hlow, hhigh] using h, rfl⟩
  | started i hp hi hc h => exact .inr (.inr (.inl ⟨hp, i, hi, hc, rfl⟩))
  | ended _ _ h | completed _ _ h => simp [hlow, hirqen] at h
  | reset h => exact .inr (.inr (.inr rfl))

/-! ### The interrupt output (60_exceptions.md R97) -/

/-- With IRQEN = 1, an engine step that ends in phase IDLE raises `irq`. -/
theorem exec_irq_of_completed (i c : Instr) (s t : State) (hirqen : s.irqen = true) (hp : s.phase = .running c)
    (h : exec i s = .next t) (hidle : t.phase = .idle) : t.irq = true := by
  obtain ⟨-, hirq⟩ | ⟨hrun, -⟩ := exec_irq_of_running i c s t hp h
  · exact hirq.trans hirqen
  · rw [hidle] at hrun
    cases hrun

/-- Settles O38: what each operation makes of `irq`, and by `State.IrqAfter` no other event changes it. -/
theorem interruptLevel : Obligations.InterruptLevel := by
  unfold Obligations.InterruptLevel
  intro s
  refine ⟨rfl, fun v hsrst hen => ?_,
    fun hirqen => ⟨fun hp => ?_, fun i hi hp hc => ?_, fun w e hp hd => ?_, fun cur t hp => ?_, fun cur hp hdraw => ?_⟩,
    fun v hdone => ?_, fun v hsrst hen => ?_, fun i hi hp hc => ?_, fun v hsrst => ?_, ?_, fun cur w hp => ?_, fun v hp => ?_,
    fun t ev h => (handle_irqAfter s t ev h).raised, fun t ev h => (handle_irqAfter s t ev h).lowered⟩
  · exact ⟨_, handle_wr_ctrl s v, by rw [writeCtrl_irq, hsrst, hen]; rfl, writeCtrl_done _ v hsrst⟩
  · exact ⟨_, exec_nop_eq_afterNop s hp, (State.irq_of_done rfl).trans hirqen⟩
  · exact ⟨_, exec_eq_failedAs s i hi hp hc, (State.irq_of_done rfl).trans hirqen⟩
  · exact ⟨_, presentCommand_of_illegal s w e hp hd, (State.irq_of_done rfl).trans hirqen⟩
  · exact exec_irq_of_completed cur cur s t hirqen hp
  · obtain ⟨t, ht, hidle, -⟩ := exec_finishes s cur hp hdraw
    exact ⟨t, ht, exec_irq_of_completed cur cur s t hirqen hp ht hidle⟩
  · exact ⟨_, handle_wr_status s v, by rw [writeStatus_irq, hdone, Bool.not_true, Bool.and_false]⟩
  · exact ⟨_, handle_wr_ctrl s v, by rw [writeCtrl_irq, hsrst, hen]; rfl, writeCtrl_done _ v hsrst⟩
  · exact ⟨_, exec_eq_acceptedAs s i hi hp hc, State.irq_of_not_done rfl⟩
  · exact ⟨_, handle_wr_ctrl s v, by rw [writeCtrl_irq, hsrst]; rfl⟩
  · exact ⟨_, handle_hardwareReset s, rfl⟩
  · exact ⟨_, presentCommand_of_running s w cur hp, rfl⟩
  · obtain ⟨hoperand, hlen, hrounds, -⟩ := writesWhileBusy s v hp
    exact ⟨⟨_, hlen, rfl, rfl⟩, ⟨_, hrounds, rfl, rfl⟩, fun x j hx hj hm => ⟨_, hoperand x j hx hj hm, rfl, rfl⟩⟩

end Sys2Proof.Machine

/-! SUPPORT. Proofs about the resets and about the interrupt before the host enables it (70_reset_and_hazards.md R109, R110). -/

namespace Sys2Proof.Machine

/-! ### The interrupt while it is not enabled (70_reset_and_hazards.md R110) -/

/-- IRQEN = 0, on a block with the parameters `p`: what every event keeps that is no enabling write. The parameters stand here since
they say at which address a write enables the interrupt. -/
structure State.IrqDisabled (s : State) (p : Params) : Prop where
  params : s.params = p
  irqen : s.irqen = false

theorem State.IrqDisabled.irq {s : State} {p : Params} (h : s.IrqDisabled p) : s.irq = false := by
  rw [State.irq, h.irqen, Bool.false_and]

/-- An action of a command writes neither IRQEN nor the parameters. -/
theorem State.IrqDisabled.exec {s t : State} {p : Params} (hs : s.IrqDisabled p) (i : Instr) (h : exec i s = .next t) :
    t.IrqDisabled p := by
  obtain ⟨-, -, -, -, -, -, hirqen, -, hparams, -⟩ := commandFrame i s t h
  exact ⟨hparams.trans hs.params, hirqen.trans hs.irqen⟩

theorem State.IrqDisabled.presentCommand {s t : State} {p : Params} (hs : s.IrqDisabled p) (w : Word)
    (h : s.presentCommand w = .next t) : t.IrqDisabled p := by
  obtain ⟨-, -, rfl⟩ | ⟨-, i, -, hexec⟩ | ⟨-, rfl⟩ := presentCommand_cases s w t h
  · exact ⟨hs.params, hs.irqen⟩
  · exact hs.exec i hexec
  · exact ⟨hs.params, hs.irqen⟩

/-- A CTRL write sets IRQEN only with bit 31 = 0 and bit 0 = 1 (10_state.md R26). -/
theorem State.IrqDisabled.writeCtrl {s : State} {p : Params} (hs : s.IrqDisabled p) (v : Word)
    (hv : ¬ (v.getLsbD 31 = false ∧ v.getLsbD 0 = true)) : (s.writeCtrl v).IrqDisabled p := by
  cases hsrst : v.getLsbD 31 with
  | true =>
    rw [writeCtrl_of_srst s v hsrst]
    exact ⟨hs.params, rfl⟩
  | false =>
    have hclear : v.getLsbD 0 = false := Bool.eq_false_iff.mpr fun hset => hv ⟨hsrst, hset⟩
    rw [State.writeCtrl, hsrst]
    exact ⟨hs.params, hclear⟩

/-- A write of LEN, ROUNDS or an operand keeps IRQEN, dropped or not (20_memory.md R43). -/
theorem State.IrqDisabled.droppedWhileBusy {s t : State} {p : Params} (hs : s.IrqDisabled p) (ht : t.IrqDisabled p) :
    (if s.busy then s.setErr .wbusy else t).IrqDisabled p := by
  split
  · exact ⟨hs.params, hs.irqen⟩
  · exact ht

theorem State.IrqDisabled.handle_host {s t : State} {p : Params} (hs : s.IrqDisabled p) (acc : Access)
    (hacc : ¬ acc.enablesIrq p) (h : s.handle (.host acc) = .next t) : t.IrqDisabled p := by
  have hw : (s.respond .written).IrqDisabled p := ⟨hs.params, hs.irqen⟩
  obtain ⟨x, rfl⟩ | rfl | ⟨v, hwidth, haddr, hk, rfl⟩ | ⟨w, -, hcmd⟩ | ⟨v, -, rfl⟩ | ⟨v, rfl⟩ | ⟨v, rfl⟩ |
    ⟨x, j, v, -, -, rfl⟩ := handle_host_cases s acc t h
  · exact ⟨hs.params, hs.irqen⟩
  · exact ⟨hs.params, hs.irqen⟩
  · exact hw.writeCtrl v fun hv => hacc ⟨hwidth, hs.params ▸ haddr, v, hk, hv⟩
  · exact hw.presentCommand w hcmd
  · exact ⟨hs.params, hs.irqen⟩
  · exact hw.droppedWhileBusy ⟨hs.params, hs.irqen⟩
  · exact hw.droppedWhileBusy ⟨hs.params, hs.irqen⟩
  · exact hw.droppedWhileBusy ⟨by simp [hs.params], by simp [hs.irqen]⟩

theorem State.IrqDisabled.handle {s t : State} {p : Params} (hs : s.IrqDisabled p) (ev : Event)
    (hev : ∀ acc, .host acc = ev → ¬ acc.enablesIrq p) (h : s.handle ev = .next t) : t.IrqDisabled p := by
  cases ev with
  | host acc => exact hs.handle_host acc (hev acc rfl) h
  | engine =>
    obtain ⟨-, rfl⟩ | ⟨cur, -, hexec⟩ := engineStep_cases s t h
    · exact hs
    · exact hs.exec cur hexec
  | engineInternal =>
    injection h with h
    subst h
    obtain he | he := internalStep_cases s <;> rw [he] <;> exact ⟨hs.params, hs.irqen⟩
  | entropy v =>
    injection h with h
    subst h
    obtain ⟨-, -, -, he⟩ | he := offerEntropy_cases s v <;> rw [he] <;> exact ⟨hs.params, hs.irqen⟩
  | hardwareReset =>
    injection h with h
    subst h
    exact ⟨hs.params, rfl⟩

theorem State.IrqDisabled.runEvents {s t : State} {p : Params} (hs : s.IrqDisabled p) (events : List Event)
    (hevents : ∀ acc, .host acc ∈ events → ¬ acc.enablesIrq p) (h : s.runEvents events = .next t) : t.IrqDisabled p := by
  induction events generalizing s with
  | nil =>
    injection h with h
    exact h ▸ hs
  | cons ev rest ih =>
    obtain ⟨u, hu⟩ := handle_next s ev
    rw [runEvents_cons s u ev rest hu] at h
    have hnext : u.IrqDisabled p := hs.handle ev (fun acc hacc => hevents acc (hacc ▸ List.mem_cons_self)) hu
    exact ih hnext (fun acc hacc => hevents acc (List.mem_cons_of_mem ev hacc)) h

/-- Settles O39: every event but an enabling write keeps IRQEN = 0, by induction on the events. -/
theorem noInterruptUntilEnabled : Obligations.NoInterruptUntilEnabled := by
  unfold Obligations.NoInterruptUntilEnabled
  intro s t events hirqen hevents h
  have hdisabled : s.IrqDisabled s.params := ⟨rfl, hirqen⟩
  have ht := hdisabled.runEvents events hevents h
  exact ⟨ht.irqen, ht.irq⟩

/-! ### The resets (70_reset_and_hazards.md R108, R109) -/

/-- Settles O25: both resets are one event each, and another access to a running block changes only the answer, IRQEN and flags. -/
theorem softAndHardwareReset : Obligations.SoftAndHardwareReset := by
  unfold Obligations.SoftAndHardwareReset
  intro s
  refine ⟨fun acc t hp hsoft h => ?_, handle_softReset s, handle_hardwareReset s⟩
  obtain ⟨x, k, i, d, e, c, rfl⟩ := handle_host_of_running s t acc hp hsoft h
  exact ⟨rfl, rfl⟩

end Sys2Proof.Machine
